-- ==== Sys2Proof/Word.lean ====
section
/-! DEFINITION. The word types of the block (00_scope R12, R17) and its two-valued and three-valued names. -/

namespace Sys2Proof

/-- One byte: a colour channel (R12), a byte of memory, a byte of an encoded frame. -/
abbrev Byte := BitVec 8

/-- One block register is 32 bits wide (R12). -/
abbrev Word := BitVec 32

/-- A 24-bit operand or result register (R17, R25, R30). -/
abbrev Packed := BitVec 24

/-- Three channels in the order of R17: red, green, blue, or hue, saturation, value. -/
structure Triple where
  c0 : Byte
  c1 : Byte
  c2 : Byte
  deriving DecidableEq, Repr, Inhabited

/-- The two front buffers (R40), which `txIdx` and `txcPending` name by index (R43). -/
inductive Front where
  | front0
  | front1
  deriving DecidableEq, Repr, Inhabited

/-- The index `1 − i` of R168 and R170. -/
def Front.other : Front → Front
  | .front0 => .front1
  | .front1 => .front0

/-- The three encoded frame buffers (R40). -/
inductive Buf where
  | back
  | front (i : Front)
  deriving DecidableEq, Repr, Inhabited

end Sys2Proof
end

