-- ==== Sys2Proof/Syntax.lean ====
section
/-! DEFINITION. The instructions of the block: the rows of spec/opcode_table.json, and the bus access (format BUS, R71)
that carries every one of them. -/

namespace Sys2Proof

/-- The direction of a bus access (R71). -/
inductive Dir where
  | write
  | read
  deriving DecidableEq, Repr, Inhabited

/-- Format BUS (R71): the tuple (dir, addr, size, data). The address is held as `off`, which is `addr − BASE` modulo
2^32 (`accessAt`, `accessAddr` convert): the spec's own notation for an encoding is `W off data` and `R off`.
For a read `data` carries nothing. -/
structure Access where
  dir  : Dir
  off  : Word
  size : Nat
  data : Word
  deriving DecidableEq, Repr, Inhabited

/-- The instructions (R70): the ten commands of R73, the class of illegal command words of R75, and the two bus
accesses. A command is the WR to offset 0 whose data word selects it. -/
inductive Instr where
  /-- OP 0x1 (R107). -/
  | rgb2hsv
  /-- OP 0x2 (R108). -/
  | hsv2rgb
  /-- OP 0x3 (R109). -/
  | powc
  /-- OP 0x4 (R110). -/
  | logc
  /-- OP 0x5 (R111). -/
  | toi
  /-- OP 0x6 (R112). -/
  | fromi
  /-- OP 0x7 (R113). -/
  | blend
  /-- OP 0x8 (R114). -/
  | chbright
  /-- OP 0x9 (R161). -/
  | start
  /-- OP 0xA (R162). -/
  | set
  /-- A write of `data` to the register at offset `off` (R90). -/
  | wr (off : BitVec 12) (data : Word)
  /-- A read of the register at offset `off` (R91). -/
  | rd (off : BitVec 12)
  /-- A command word that no command has (R75). -/
  | illegal (word : Word)
  deriving DecidableEq, Repr, Inhabited

/-- What the host does next: a bus access (R97), or a store of one byte to system memory, which is outside the block
(R52: the block reads the memory "as the host left it"). -/
inductive HostAct where
  | access (a : Access)
  | store (addr : Word) (value : Byte)
  deriving DecidableEq, Repr, Inhabited

end Sys2Proof
end

