-- ==== Sys2Proof/WellFormed.lean ====
section
/-! DEFINITION. Which instructions and which bus accesses the encoding admits (R71, R72, R75). -/

namespace Sys2Proof

/-- OP, bits 3:0 of a command word (R72). -/
def opField (w : Word) : BitVec 4 := w.extractLsb' 0 4

/-- MBZ, bits 31:4 of a command word (R72). -/
def mbzField (w : Word) : BitVec 28 := w.extractLsb' 4 28

/-- An illegal command word (R75): MBZ is not 0, or OP is 0x0 or one of 0xB to 0xF. -/
def illegalWord (w : Word) : Bool :=
  mbzField w != 0 || opField w == 0x0 || 0xB#4 ≤ opField w

/-- An offset is 4-byte aligned (R58). -/
def alignedOff (off : BitVec 12) : Bool := off.extractLsb' 0 2 == 0

/-- A well-formed instruction is one that a bus access decodes to: an aligned offset; a `wr` that is not a command
(the WR to offset 0 IS the command its data word selects, R70); an `illegal` whose word is illegal. -/
def Instr.wf : Instr → Bool
  | .wr off _ => off != 0 && alignedOff off
  | .rd off => alignedOff off
  | .illegal w => illegalWord w
  | .rgb2hsv | .hsv2rgb | .powc | .logc | .toi | .fromi | .blend | .chbright | .start | .set => true

end Sys2Proof
end

