-- ==== Sys2Proof/Decode.lean ====
section
/-! DEFINITION. The decoder, total on every bus access and every command word, and the encoder (30_encoding R70 to R77). -/

namespace Sys2Proof

/-- Why a bus access is not an instruction of the block. -/
inductive DecodeError where
  /-- "An access outside the register block is not the block's" (R71). -/
  | outsideBlock
  /-- The access is not 32 bits wide (R58, R71). -/
  | badSize
  /-- The access is not 4-byte aligned (R58, R71). -/
  | misaligned
  deriving DecidableEq, Repr

/-- The ten operation codes (R73). -/
def commandOf (op : BitVec 4) : Option Instr :=
  match op.toNat with
  | 0x1 => some .rgb2hsv
  | 0x2 => some .hsv2rgb
  | 0x3 => some .powc
  | 0x4 => some .logc
  | 0x5 => some .toi
  | 0x6 => some .fromi
  | 0x7 => some .blend
  | 0x8 => some .chbright
  | 0x9 => some .start
  | 0xA => some .set
  | _ => none

/-- Format CMD (R72): a legal word is one of the ten commands, every other word is illegal (R75). -/
def decodeCommand (w : Word) : Instr :=
  if mbzField w = 0 then (commandOf (opField w)).getD (.illegal w) else .illegal w

/-- Format BUS (R71): the instruction that a bus access issues. The checks come in this order: outside the block, size,
alignment. A WR to offset 0 (CMD) is the command that its data word selects (R70, R72). DESIGN CHOICE: whether an access
lies outside the block goes by `addr`, its first byte, alone; so one that starts below BASE and reaches into the block is
outside it, and one that starts in the block and reaches past its end is a non-admitted access to it (assumption 17). -/
def decodeAccess (a : Access) : Except DecodeError Instr :=
  if 0xFFF#32 < a.off then .error .outsideBlock
  else if a.size ≠ 4 then .error .badSize
  else if alignedOff (a.off.setWidth 12) = false then .error .misaligned
  else match a.dir with
    | .write => if a.off = 0 then .ok (decodeCommand a.data) else .ok (.wr (a.off.setWidth 12) a.data)
    | .read => .ok (.rd (a.off.setWidth 12))

/-- The WR to CMD with data word `w`. -/
def cmdAccess (w : Word) : Access := ⟨.write, 0, 4, w⟩

/-- The bus access that issues an instruction: "the full 32-bit command word for OP = n is 0x0000000n" (R73), and the
tuples of R71. The data of a read is returned, not given; it is 0 here. -/
def encode : Instr → Access
  | .rgb2hsv => cmdAccess 0x00000001
  | .hsv2rgb => cmdAccess 0x00000002
  | .powc => cmdAccess 0x00000003
  | .logc => cmdAccess 0x00000004
  | .toi => cmdAccess 0x00000005
  | .fromi => cmdAccess 0x00000006
  | .blend => cmdAccess 0x00000007
  | .chbright => cmdAccess 0x00000008
  | .start => cmdAccess 0x00000009
  | .set => cmdAccess 0x0000000A
  | .wr off data => ⟨.write, off.setWidth 32, 4, data⟩
  | .rd off => ⟨.read, off.setWidth 32, 4, 0⟩
  | .illegal w => cmdAccess w

/-- The bus access that carries the bits `w` of an opcode-table row: the 32-bit data word of a WR to CMD (R72), the bits
above `nbits` being 0. A row of format BUS has no bit pattern (its mask is "n/a"), so no number stands for one. -/
def tableAccess (nbits w : Nat) : Access := cmdAccess (BitVec.ofNat 32 (w % 2 ^ nbits))

/-- What the decoder reads from an instruction whose bits are `w`; none where it refuses. A word longer than 32 bits is
no command word (R77). -/
def decodeTableWord (nbits w : Nat) : Option Instr :=
  if 32 < nbits then none
  else match decodeAccess (tableAccess nbits w) with
    | .ok i => some i
    | .error _ => none

/-- Decoding of every constructor, each from the tuple or word that R71 to R75 give it. -/
theorem decode_rgb2hsv : decodeAccess ⟨.write, 0x00, 4, 0x00000001⟩ = .ok .rgb2hsv := by decide
theorem decode_hsv2rgb : decodeAccess ⟨.write, 0x00, 4, 0x00000002⟩ = .ok .hsv2rgb := by decide
theorem decode_powc : decodeAccess ⟨.write, 0x00, 4, 0x00000003⟩ = .ok .powc := by decide
theorem decode_logc : decodeAccess ⟨.write, 0x00, 4, 0x00000004⟩ = .ok .logc := by decide
theorem decode_toi : decodeAccess ⟨.write, 0x00, 4, 0x00000005⟩ = .ok .toi := by decide
theorem decode_fromi : decodeAccess ⟨.write, 0x00, 4, 0x00000006⟩ = .ok .fromi := by decide
theorem decode_blend : decodeAccess ⟨.write, 0x00, 4, 0x00000007⟩ = .ok .blend := by decide
theorem decode_chbright : decodeAccess ⟨.write, 0x00, 4, 0x00000008⟩ = .ok .chbright := by decide
theorem decode_start : decodeAccess ⟨.write, 0x00, 4, 0x00000009⟩ = .ok .start := by decide
theorem decode_set : decodeAccess ⟨.write, 0x00, 4, 0x0000000A⟩ = .ok .set := by decide
theorem decode_wr : decodeAccess ⟨.write, 0x08, 4, 0xAB123456⟩ = .ok (.wr 0x08 0xAB123456) := by decide
theorem decode_rd : decodeAccess ⟨.read, 0x3C, 4, 0⟩ = .ok (.rd 0x3C) := by decide
theorem decode_illegal : decodeAccess ⟨.write, 0x00, 4, 0x00000011⟩ = .ok (.illegal 0x00000011) := by decide

end Sys2Proof
end

