-- ==== Sys2Proof/Config.lean ====
section
/-! DEFINITION. The configuration record (00_scope R7 to R9, 20_memory R52, R62, 43_driver R178): whole, with its two real
numbers (`Params`), and the plain data that State holds of it (`Cfg`); the constants of the one platform that `State.reset`
starts (all OPEN in the spec, so opaque); the free choice of the agent that takes the next step (R13). -/

namespace Sys2Proof

/-- A positive real: SPI_HZ in hertz, T_RESET in seconds (R7). -/
abbrev PosReal := { x : ℝ // 0 < x }

/-- A readable range of system memory: `size` bytes at `base` (R52). -/
structure Region where
  base : Nat
  size : Nat
  deriving DecidableEq, Repr, Inhabited

/-- The configuration record of R7, with the platform's MemOK (R52) and dmaMayFail (R178). -/
structure Params where
  /-- `N`, the pixel count of the strip. -/
  n : Nat
  /-- `RESET_BYTES`, the length of the zero tail. -/
  resetBytes : Nat
  /-- `SPI_HZ`. -/
  spiHz : PosReal
  /-- `T_RESET`. -/
  tReset : PosReal
  /-- `POWER`. -/
  power : Vector Byte 256
  /-- `LOG`. -/
  log : Vector Byte 256
  /-- Bits 31:12 of `BASE`, which is 4 KiB-aligned (R62). -/
  basePage : BitVec 20
  /-- The ranges behind the predicate `MemOK` (R52). -/
  memRegions : List Region
  /-- `dmaMayFail` (R178). -/
  dmaMayFail : Bool

/-- A well-formed configuration (R9). -/
def Params.WellFormed (p : Params) : Prop :=
  1 ≤ p.n ∧ 1 ≤ p.resetBytes ∧ p.tReset.val < p.resetBytes * 8 / p.spiHz.val

/-- What State holds of the configuration. DESIGN CHOICE: it is plain data in State that no step writes, so a statement
over every state is a statement over every configuration; of the two reals it holds the one number that R9 needs
(assumptions 1 and 2). -/
structure Cfg where
  /-- `N`. -/
  n : Nat
  /-- `RESET_BYTES`. -/
  resetBytes : Nat
  /-- The whole part of T_RESET · SPI_HZ / 8, the number of bytes sent in T_RESET (`Params.Describes`). -/
  gapBytes : Nat
  /-- `POWER`. -/
  power : Vector Byte 256
  /-- `LOG`. -/
  log : Vector Byte 256
  /-- Bits 31:12 of `BASE` (R62). -/
  basePage : BitVec 20
  /-- The ranges behind `MemOK` (R52). -/
  memRegions : List Region
  /-- `dmaMayFail` (R178). -/
  dmaMayFail : Bool
  deriving DecidableEq, Repr

/-- `c` is what State holds of the configuration `p`. Every `p` has one `c`, and every `c` some `p`. -/
def Params.Describes (p : Params) (c : Cfg) : Prop :=
  c.n = p.n ∧ c.resetBytes = p.resetBytes ∧ c.gapBytes = ⌊p.tReset.val * p.spiHz.val / 8⌋₊ ∧ c.power = p.power
    ∧ c.log = p.log ∧ c.basePage = p.basePage ∧ c.memRegions = p.memRegions ∧ c.dmaMayFail = p.dmaMayFail

/-- `BASE` (R7, R62). -/
def Cfg.base (c : Cfg) : Word := c.basePage ++ 0#12

/-- `DATA_BYTES = 36·N` (R8). -/
def Cfg.dataBytes (c : Cfg) : Nat := 36 * c.n

/-- `L = 36·N + RESET_BYTES`, the length of every encoded frame buffer (R8). -/
def Cfg.frameLen (c : Cfg) : Nat := 36 * c.n + c.resetBytes

/-- A well-formed configuration (R9). RESET_BYTES · 8 / SPI_HZ > T_RESET holds exactly when RESET_BYTES, a whole number,
is above the whole part of T_RESET · SPI_HZ / 8. -/
def Cfg.wf (c : Cfg) : Bool := 1 ≤ c.n && 1 ≤ c.resetBytes && c.gapBytes < c.resetBytes

/-- Who takes the next step (R13, R178). -/
inductive Turn where
  | host
  | ctrl
  | txdma
  | cpydma
  /-- The platform reports a DMA error (R178). -/
  | dmaerr
  deriving DecidableEq, Repr, Inhabited

/-- Free value: the agent scheduled at the `k`-th free draw. "Any enabled agent may be scheduled at any step" (R13). -/
opaque Config.freeTurn : Nat → Turn

/-- OPEN (R7): the pixel count `N`, less one. -/
opaque Config.pixelsLessOne : Nat

/-- OPEN (R7): the whole part of T_RESET · SPI_HZ / 8, for the two open reals. -/
opaque Config.gapBytes : Nat

/-- OPEN (R7): how many bytes RESET_BYTES is longer than the least number that R9 allows. -/
opaque Config.extraResetBytes : Nat

/-- OPEN (R7): the power curve. -/
opaque Config.power : Vector Byte 256

/-- OPEN (R7): the log curve. -/
opaque Config.log : Vector Byte 256

/-- OPEN (R7): `BASE`, less its 12 zero bits. -/
opaque Config.basePage : BitVec 20

/-- OPEN (R52): which system memory exists. -/
opaque Config.memRegions : List Region

/-- The configuration of the one platform that `State.reset` starts: any well-formed one (R9). RESET_BYTES is the least
number of bytes whose duration exceeds T_RESET, plus an open number of further bytes, which is every RESET_BYTES that
R9 admits. `dmaMayFail` is the spec's default (R178). -/
def Config.platform : Cfg where
  n := Config.pixelsLessOne + 1
  resetBytes := Config.gapBytes + 1 + Config.extraResetBytes
  gapBytes := Config.gapBytes
  power := Config.power
  log := Config.log
  basePage := Config.basePage
  memRegions := Config.memRegions
  dmaMayFail := true

end Sys2Proof
end

