-- ==== Sys2Proof/Machine/Encoder.lean ====
section
/-! DEFINITION. The PixelEncoder (42_encoder R140 to R151): pure functions from pixels to the bytes of an encoded frame and
to wire bits, and their specification inverse. -/

namespace Sys2Proof.Machine

/-- A nibble of four equal bits. -/
def nibble (x : Bool) : BitVec 4 := if x then 0xF else 0x0

/-- The 12 wire bits of one source bit, in time order: 1 1 1 1 x x x x 0 0 0 0 (R141). -/
def cell (x : Bool) : List Bool :=
  [true, true, true, true, x, x, x, x, false, false, false, false]

/-- Two source bits, `x` first, in three wire bytes (R142): 1111 xxxx, 0000 1111, yyyy 0000. -/
def pair (x y : Bool) : List Byte := [0xF#4 ++ nibble x, 0x0F, nibble y ++ 0x0#4]

/-- One channel, most significant bit first, in 12 bytes (R140, R143). -/
def encChannel (c : Byte) : List Byte :=
  pair (c.getLsbD 7) (c.getLsbD 6) ++ pair (c.getLsbD 5) (c.getLsbD 4)
    ++ pair (c.getLsbD 3) (c.getLsbD 2) ++ pair (c.getLsbD 1) (c.getLsbD 0)

/-- One pixel in 36 bytes: red, green, blue (R144). -/
def encPixel (p : Triple) : List Byte := encChannel p.c0 ++ encChannel p.c1 ++ encChannel p.c2

/-- All pixels of a frame, then the zero tail (R145). -/
def encFrame (c : Cfg) (ps : List Triple) : List Byte :=
  ps.flatMap encPixel ++ List.replicate c.resetBytes 0

/-- The frame of N black pixels, the content of every buffer at reset (R150, R221). -/
def blackFrame (c : Cfg) : List Triple := List.replicate c.n ⟨0, 0, 0⟩

/-- The source bit of a variable nibble, if it is one (R149). -/
def decNibble (x : BitVec 4) : Option Bool :=
  if x = 0xF then some true else if x = 0x0 then some false else none

/-- The inverse of `pair`: none is INVALID (R149). -/
def decPair (b0 b1 b2 : Byte) : Option (Bool × Bool) :=
  if b0.extractLsb' 4 4 = 0xF ∧ b1 = 0x0F ∧ b2.extractLsb' 0 4 = 0x0 then
    match decNibble (b0.extractLsb' 0 4), decNibble (b2.extractLsb' 4 4) with
    | some x, some y => some (x, y)
    | _, _ => none
  else none

/-- The byte whose bits are given most significant first. -/
def byteOfBits (b7 b6 b5 b4 b3 b2 b1 b0 : Bool) : Byte :=
  BitVec.ofBool b7 ++ BitVec.ofBool b6 ++ BitVec.ofBool b5 ++ BitVec.ofBool b4
    ++ BitVec.ofBool b3 ++ BitVec.ofBool b2 ++ BitVec.ofBool b1 ++ BitVec.ofBool b0

/-- The specification inverse of `encChannel` (R149), on exactly 12 bytes: none is INVALID. -/
def decChannel : List Byte → Option Byte
  | [x0, x1, x2, x3, x4, x5, x6, x7, x8, x9, x10, x11] =>
    match decPair x0 x1 x2, decPair x3 x4 x5, decPair x6 x7 x8, decPair x9 x10 x11 with
    | some (a, b), some (c, d), some (e, f), some (g, h) => some (byteOfBits a b c d e f g h)
    | _, _, _, _ => none
  | _ => none

/-- `decChannel` at the offsets of R144, on exactly 36 bytes (R149). -/
def decPixel (b : List Byte) : Option Triple :=
  match decChannel (b.take 12), decChannel ((b.drop 12).take 12), decChannel (b.drop 24) with
  | some r, some g, some bl => some ⟨r, g, bl⟩
  | _, _, _ => none

/-- The first `k` pixels of a buffer and the bytes after them. -/
def decPixels : Nat → List Byte → Option (List Triple × List Byte)
  | 0, b => some ([], b)
  | k + 1, b =>
    match decPixel (b.take 36), decPixels k (b.drop 36) with
    | some p, some (ps, rest) => some (p :: ps, rest)
    | _, _ => none

/-- The specification inverse of `encFrame` (R149): N pixels, then a tail of RESET_BYTES zero bytes, or INVALID. -/
def decFrame (c : Cfg) (b : List Byte) : Option (List Triple) :=
  match decPixels c.n b with
  | some (ps, rest) => if rest = List.replicate c.resetBytes 0 then some ps else none
  | none => none

/-- The wire bits of one byte, bit 7 first (R147). -/
def serialiseByte (b : Byte) : List Bool :=
  [b.getLsbD 7, b.getLsbD 6, b.getLsbD 5, b.getLsbD 4, b.getLsbD 3, b.getLsbD 2, b.getLsbD 1, b.getLsbD 0]

/-- The wire bits of a buffer, in time order (R147, R57). -/
def serialise (b : List Byte) : List Bool := b.flatMap serialiseByte

/-- The source bits of one channel, in the order in which they are encoded (R140). -/
def sourceBits (c : Byte) : List Bool := serialiseByte c

end Sys2Proof.Machine
end

