-- ==== Sys2Proof/Machine/State.lean ====
section
/-! DEFINITION. The state of the block (10_state R20), the reasons for which a step can stop, and the state after reset
(70_reset R220). -/

namespace Sys2Proof.Machine

/-- The reasons for which the machine stops. The block itself never stops a run: a fault of the block (R191) is latched
in `State.fault` and is a next state, and a hold or a stuck host access is a next state in which the host waits. -/
inductive Fault where
  /-- Raised by the host's own store to system memory at an address that does not exist on this platform (R52: "Which
  addresses exist is the platform's"). Safe: the spec gives such a store no effect. -/
  | noSystemMemory
  deriving DecidableEq, Repr

/-- What the model gives no meaning to. -/
inductive Refusal where
  /-- Answered by an arm of `exec` whose instruction has no meaning yet. Safe. -/
  | notModelled (mnemonic : String)
  /-- Answered by a step in which the host issues an access outside the register block, which "is not the block's, and
  the block gives it no meaning" (R71); which accesses are outside goes by their first byte (DESIGN CHOICE, assumption 17).
  Safe. -/
  | outsideBlock
  /-- Answered by `boot` for a configuration that is not well-formed: "It gives such a configuration no run" (R9).
  Safe. -/
  | illFormedConfig
  deriving DecidableEq, Repr

/-- The state machine over the back buffer (R38). -/
inductive BackState where
  | free
  | readyToCopy
  | copying
  deriving DecidableEq, Repr, Inhabited

/-- A copy in flight (R44): the source is any buffer, the target a front buffer. -/
structure Copy where
  src : Buf
  dst : Front
  deriving DecidableEq, Repr, Inhabited

/-- The causes of a fault (R191). -/
inductive Cause where
  | countMismatch
  | illegalCmd
  | blendDiv0
  | blendRange
  | copyLate
  | irqOverrun
  | dmaError
  deriving DecidableEq, Repr, Inhabited

/-- System memory (R52): (address, byte) pairs in the canonical form that `Memory.wf` states. -/
abbrev Memory := List Host.Cell

/-- The whole state: the configuration (R7), the record `St` of R20, system memory (R52), and the model's own fields for
the host and the schedule. -/
structure State where
  /-- The configuration, which no step writes (R7). -/
  cfg        : Cfg
  /-- OPA (R25). -/
  opa        : Packed
  /-- OPB (R26). -/
  opb        : Packed
  /-- FACTOR (R27). -/
  factor     : Byte
  /-- ELAPSED (R28). -/
  elapsed    : Word
  /-- TOTAL (R29). -/
  total      : Word
  /-- RESULT (R30). -/
  result     : Packed
  /-- FRAME_ADDR (R31). -/
  frameAddr  : Word
  /-- FRAME_COUNT (R32). -/
  frameCount : Word
  /-- The back-buffer state (R38). -/
  backState  : BackState
  /-- Transmission has started (R39). -/
  started    : Bool
  /-- BACK_ID (R35). -/
  backId     : Word
  /-- FRONT_ID0 (R36). -/
  frontId0   : Word
  /-- FRONT_ID1 (R36). -/
  frontId1   : Word
  /-- SET_COUNT (R33). -/
  setCount   : Word
  /-- FLIP_COUNT (R34). -/
  flipCount  : Word
  /-- `buf[BACK]` (R40). -/
  bufBack    : List Byte
  /-- `buf[FRONT0]` (R40). -/
  bufFront0  : List Byte
  /-- `buf[FRONT1]` (R40). -/
  bufFront1  : List Byte
  /-- The wire history, oldest frame first (R41). -/
  wire       : List (List Byte)
  /-- The front buffer being sent now, or first once started (R43). -/
  txIdx      : Front
  /-- The front buffer whose transmit-complete event waits for the handler (R43). -/
  txcPending : Option Front
  /-- The copy engine has finished and the handler has not run (R44). -/
  cpcPending : Bool
  /-- The copy in flight (R44). -/
  copy       : Option Copy
  /-- The first fault latched since reset (R45). -/
  fault      : Option Cause
  /-- System memory, as the host left it (R52). -/
  mem        : Memory
  /-- Model's own: the bus access that the host has issued and that has not completed (R94, R97). -/
  hostNow    : Option Access
  /-- Model's own: what the host does next, oldest first. DESIGN CHOICE: a finite list, fixed before what the accesses return
  is known (assumption 18). -/
  hostProg   : List HostAct
  /-- Model's own: the data word that the last completed RD returned to the host (R71). -/
  readData   : Word
  /-- Model's own: the schedule still to be followed (R13). -/
  turns      : List Turn
  /-- Model's own: how many free draws of the schedule have been taken (R13). -/
  draws      : Nat
  deriving DecidableEq, Repr

/-- Every component of R220 at the value it states, for the configuration `c`. System memory, the host and the schedule
are empty (assumptions 3, 4, 6, 7, 8). -/
def State.resetOf (c : Cfg) : State where
  cfg := c
  opa := 0
  opb := 0
  factor := 0
  elapsed := 0
  total := 0
  result := 0
  frameAddr := 0
  frameCount := 0
  backState := .free
  started := false
  backId := 0
  frontId0 := 0
  frontId1 := 0
  setCount := 0
  flipCount := 0
  bufBack := encFrame c (blackFrame c)
  bufFront0 := encFrame c (blackFrame c)
  bufFront1 := encFrame c (blackFrame c)
  wire := []
  txIdx := .front0
  txcPending := none
  cpcPending := false
  copy := none
  fault := none
  mem := []
  hostNow := none
  hostProg := []
  readData := 0
  turns := []
  draws := 0

/-- The machine right after reset (R220), with the one open configuration `Config.platform`. -/
def State.reset : State := State.resetOf Config.platform

end Sys2Proof.Machine
end

