-- ==== Sys2Proof/Machine/Ops.lean ====
section
/-! DEFINITION. The named operations over memory, registers, buffers and the host's access, and the one operation that
raises a fault (60_exceptions R192). -/

namespace Sys2Proof.Machine

/-! ### System memory -/

/-- What an address that memory does not list reads as. DESIGN CHOICE: the spec gives no content (assumption 4). -/
def unlistedByte : Byte := 0

/-- Addresses strictly rise from `lo`, stay below 2^32, and no entry is equal to what an unlisted address reads as. -/
def Memory.wfFrom : Nat → Memory → Bool
  | _, [] => true
  | lo, (a, v) :: rest => lo ≤ a && a < 2 ^ 32 && v != unlistedByte && Memory.wfFrom (a + 1) rest

/-- The canonical form of memory. -/
def Memory.wf (m : Memory) : Bool := Memory.wfFrom 0 m

/-- The byte at an address. -/
def readByte : Memory → Nat → Byte
  | [], _ => unlistedByte
  | (k, v) :: rest, a => if a = k then v else readByte rest a

/-- Put an entry in front, unless it is what an unlisted address reads as. -/
def consCell (a : Nat) (v : Byte) (m : Memory) : Memory := if v = unlistedByte then m else (a, v) :: m

/-- Write one byte, keeping the canonical form. -/
def writeByte : Memory → Nat → Byte → Memory
  | [], a, v => consCell a v []
  | (k, w) :: rest, a, v =>
    if a < k then consCell a v ((k, w) :: rest)
    else if a = k then consCell a v rest
    else (k, w) :: writeByte rest a v

/-- `MemRead(a, n)`: the n bytes at a, a+1, …, a+n−1, in that order (R52). -/
def memRead (m : Memory) (a : Nat) : Nat → List Byte
  | 0 => []
  | n + 1 => readByte m a :: memRead m (a + 1) n

/-- The predicate `MemOK(a, n)` of R52: the range lies in memory that exists (assumption 5). -/
def memOK (c : Cfg) (a n : Nat) : Bool := c.memRegions.any fun r => r.base ≤ a && a + n ≤ r.base + r.size

/-- The condition under which a read has a step (R52): `MemOK(a, n)`, and it does not wrap. -/
def memReadable (c : Cfg) (a n : Nat) : Bool := memOK c a n && a + n ≤ 2 ^ 32

/-! ### Frame buffers and front ids -/

/-- `buf[b]` (R16, R40). -/
def State.buf (s : State) : Buf → List Byte
  | .back => s.bufBack
  | .front .front0 => s.bufFront0
  | .front .front1 => s.bufFront1

/-- `buf[b] <- v`. -/
def State.setBuf (s : State) (b : Buf) (v : List Byte) : State :=
  match b with
  | .back => { s with bufBack := v }
  | .front .front0 => { s with bufFront0 := v }
  | .front .front1 => { s with bufFront1 := v }

/-- `st.frontId[i]` (R36). -/
def State.frontId (s : State) : Front → Word
  | .front0 => s.frontId0
  | .front1 => s.frontId1

/-- `st.frontId[i] <- v`. -/
def State.setFrontId (s : State) (i : Front) (v : Word) : State :=
  match i with
  | .front0 => { s with frontId0 := v }
  | .front1 => { s with frontId1 := v }

/-- `st.result <- v` (R30). -/
def State.withResult (s : State) (v : Packed) : State := { s with result := v }

/-! ### Faults and waiting -/

/-- `raise Fault(c)` (R192): if no fault is latched, latch `c`; nothing else changes. -/
def raise (c : Cause) (s : State) : State :=
  match s.fault with
  | none => { s with fault := some c }
  | some _ => s

/-- The host waits inside the access `a`, which has not completed: a hold (R164, R94) or a stuck access (R52, R58).
Nothing else changes. -/
def hostWaits (a : Access) (s : State) : State := { s with hostNow := some a }

/-- The gate of `dispatch` (R94): a command is performed only while no fault is latched; otherwise its CMD write
holds. -/
def command (w : Word) (body : State → State) (s : State) : Host.Outcome State Fault Refusal :=
  match s.fault with
  | some _ => .next (hostWaits (cmdAccess w) s)
  | none => .next (body s)

end Sys2Proof.Machine
end

