-- ==== Sys2Proof/Machine/Operands.lean ====
section
/-! DEFINITION. The operand forms (00_scope R17, 30_encoding R74): triples packed in 24 bits, the 8-bit index of a curve,
the pixel array of SET, and the numeric primitives of R14 and R15. -/

namespace Sys2Proof.Machine

/-- The triple `{c0, c1, c2}` of a 24-bit operand (R17). -/
def unpack (p : Packed) : Triple :=
  ⟨p.extractLsb' 16 8, p.extractLsb' 8 8, p.extractLsb' 0 8⟩

/-- The 24-bit value of a triple (R17). -/
def packTriple (t : Triple) : Packed := t.c0 ++ t.c1 ++ t.c2

/-- The index x of POWC and LOGC: bits 7:0 (R74). -/
def curveIndex (p : Packed) : Byte := p.extractLsb' 0 8

/-- `tdiv(a, b)`: integer division truncating toward zero (R15). -/
def tdiv (a b : Int) : Int := Int.tdiv a b

/-- `trunc8(v)`: v modulo 256 (R14). -/
def trunc8 (v : Int) : Byte := BitVec.ofInt 8 v

/-- An entry of a curve table (R42). -/
def curve (table : Vector Byte 256) (x : Byte) : Byte := table[x.toNat]'x.isLt

/-- The pixels of consecutive bytes: red, green, blue each (R56, R162). -/
def pixelsOf : List Byte → List Triple
  | r :: g :: b :: rest => ⟨r, g, b⟩ :: pixelsOf rest
  | _ => []

/-- The frame that SET reads: the N pixels at FRAME_ADDR (R56, R162). -/
def framePixels (s : State) : List Triple := pixelsOf (memRead s.mem s.frameAddr.toNat (3 * s.cfg.n))

end Sys2Proof.Machine
end

