-- ==== Sys2Proof/Machine/ColorModel.lean ====
section
/-! DEFINITION. The pure functions of the ColorModel (41_color R100 to R106). Arithmetic is on unbounded integers, with the
truncations written out (R14, R15). -/

namespace Sys2Proof.Machine

/-- The hue of a colour whose channels are not all equal, before `trunc8` (R100). Red is tested first, then green, then
blue (R101). -/
def hueOf (r g b mx mn : Nat) : Int :=
  let d : Int := (mx : Int) - mn
  if mx = r then 0 + tdiv (43 * ((g : Int) - b)) d
  else if mx = g then 85 + tdiv (43 * ((b : Int) - r)) d
  else 171 + tdiv (43 * ((r : Int) - g)) d

/-- The saturation 255·(max − min) div max (R100). -/
def satOf (mx mn : Nat) : Nat := 255 * (mx - mn) / mx

/-- `rgbToHsv` on natural channels (R100). -/
def rgbToHsvNat (r g b : Nat) : Triple :=
  let mx := max r (max g b)
  let mn := min r (min g b)
  if mx = 0 then ⟨0, 0, 0⟩
  else if satOf mx mn = 0 then ⟨0, 0, BitVec.ofNat 8 mx⟩
  else ⟨trunc8 (hueOf r g b mx mn), BitVec.ofNat 8 (satOf mx mn), BitVec.ofNat 8 mx⟩

/-- `rgbToHsv(r, g, b)` (R100). -/
def rgbToHsv (p : Triple) : Triple := rgbToHsvNat p.c0.toNat p.c1.toNat p.c2.toNat

/-- The value `(v · (255 − x)) >> 8` that p, q and t share (R102). -/
def scaled (v x : Nat) : Nat := v * (255 - x) / 256

/-- The selection of R102 by region, on natural h, s ≠ 0 and v. PRESUMED: the formulas for p, q, t and the table are the
spec's, which takes them from general knowledge (assumption 10). -/
def hsvSector (h s v : Nat) : Nat × Nat × Nat :=
  let region := h / 43
  let remainder := (h - region * 43) * 6
  let p := scaled v s
  let q := scaled v (s * remainder / 256)
  let t := scaled v (s * (255 - remainder) / 256)
  match region with
  | 0 => (v, t, p)
  | 1 => (q, v, p)
  | 2 => (p, v, t)
  | 3 => (p, q, v)
  | 4 => (t, p, v)
  | _ => (v, p, q)

/-- `hsvToRgb(h, s, v)` (R102). -/
def hsvToRgb (p : Triple) : Triple :=
  if p.c1 = 0 then ⟨p.c2, p.c2, p.c2⟩
  else
    let rgb := hsvSector p.c0.toNat p.c1.toNat p.c2.toNat
    ⟨BitVec.ofNat 8 rgb.1, BitVec.ofNat 8 rgb.2.1, BitVec.ofNat 8 rgb.2.2⟩

/-- One channel of the interpolation primitive, exact (R103). -/
def blend1 (a b e t : Nat) : Int := a + tdiv (((b : Int) - a) * e) t

/-- `blend(A, B, e, T)` (R103). -/
def blendTriple (a b : Triple) (e t : Nat) : Triple :=
  ⟨trunc8 (blend1 a.c0.toNat b.c0.toNat e t), trunc8 (blend1 a.c1.toNat b.c1.toNat e t),
   trunc8 (blend1 a.c2.toNat b.c2.toNat e t)⟩

/-- `toInterp(r, g, b)`: only the value channel passes through LOG (R104). -/
def toInterp (c : Cfg) (p : Triple) : Triple :=
  let hsv := rgbToHsv p
  ⟨hsv.c0, hsv.c1, curve c.log hsv.c2⟩

/-- `fromInterp(h, s, w)` is `hsvToRgb(h, s, POWER[w])` (R105). -/
def fromInterp (c : Cfg) (p : Triple) : Triple := hsvToRgb ⟨p.c0, p.c1, curve c.power p.c2⟩

/-- The value path of one interpolated pixel, from keyframe colours `x` and `y` at elapsed `e` of `t` (R119). -/
def renderPixel (c : Cfg) (x y : Triple) (e t : Nat) : Triple :=
  fromInterp c (blendTriple (toInterp c x) (toInterp c y) e t)

/-- `changeBrightness((r, g, b), f)`: the value becomes (v · f) div 255 (R106). -/
def changeBrightness (p : Triple) (f : Byte) : Triple :=
  let hsv := rgbToHsv p
  hsvToRgb ⟨hsv.c0, hsv.c1, BitVec.ofNat 8 (hsv.c2.toNat * f.toNat / 255)⟩

end Sys2Proof.Machine
end

