-- ==== Sys2Proof/Machine/Color.lean ====
section
/-! DEFINITION. The eight colour commands (41_color R107 to R114). Each reads its operand registers at this step (R94) and,
when it completes, writes only RESULT (R30). -/

namespace Sys2Proof.Machine

/-- RGB2HSV (R107) while no fault is latched. -/
def rgb2hsvBody (s : State) : State :=
  s.withResult (packTriple (rgbToHsv (unpack s.opa)))

/-- RGB2HSV (R107). -/
def execRgb2hsv (s : State) : Host.Outcome State Fault Refusal := command 0x1 rgb2hsvBody s

/-- HSV2RGB (R108) while no fault is latched. -/
def hsv2rgbBody (s : State) : State :=
  s.withResult (packTriple (hsvToRgb (unpack s.opa)))

/-- HSV2RGB (R108). -/
def execHsv2rgb (s : State) : Host.Outcome State Fault Refusal := command 0x2 hsv2rgbBody s

/-- POWC (R109): OPA[23:8] is ignored; the command while no fault is latched. -/
def powcBody (s : State) : State :=
  s.withResult ((curve s.cfg.power (curveIndex s.opa)).setWidth 24)

/-- POWC (R109): OPA[23:8] is ignored. -/
def execPowc (s : State) : Host.Outcome State Fault Refusal := command 0x3 powcBody s

/-- LOGC (R110): OPA[23:8] is ignored; the command while no fault is latched. -/
def logcBody (s : State) : State :=
  s.withResult ((curve s.cfg.log (curveIndex s.opa)).setWidth 24)

/-- LOGC (R110): OPA[23:8] is ignored. -/
def execLogc (s : State) : Host.Outcome State Fault Refusal := command 0x4 logcBody s

/-- TOI (R111) while no fault is latched. -/
def toiBody (s : State) : State :=
  s.withResult (packTriple (toInterp s.cfg (unpack s.opa)))

/-- TOI (R111). -/
def execToi (s : State) : Host.Outcome State Fault Refusal := command 0x5 toiBody s

/-- FROMI (R112) while no fault is latched. -/
def fromiBody (s : State) : State :=
  s.withResult (packTriple (fromInterp s.cfg (unpack s.opa)))

/-- FROMI (R112). -/
def execFromi (s : State) : Host.Outcome State Fault Refusal := command 0x6 fromiBody s

/-- What BLEND does while no fault is latched (R113): BLEND_DIV0 is checked before BLEND_RANGE (R196). -/
def blendBody (s : State) : State :=
  if s.total = 0 then raise .blendDiv0 s
  else if s.total < s.elapsed then raise .blendRange s
  else s.withResult (packTriple (blendTriple (unpack s.opa) (unpack s.opb) s.elapsed.toNat s.total.toNat))

/-- BLEND (R113). -/
def execBlend (s : State) : Host.Outcome State Fault Refusal := command 0x7 blendBody s

/-- CHBRIGHT (R114) while no fault is latched. -/
def chbrightBody (s : State) : State :=
  s.withResult (packTriple (changeBrightness (unpack s.opa) s.factor))

/-- CHBRIGHT (R114). -/
def execChbright (s : State) : Host.Outcome State Fault Refusal := command 0x8 chbrightBody s

end Sys2Proof.Machine
end

