-- ==== Sys2Proof/Machine/Driver.lean ====
section
/-! DEFINITION. The transmission pipeline (43_driver R160 to R181): the commands START and SET, the steps TXDONE, COPYDONE and
DMAERR, and the two handlers of CTRL. -/

namespace Sys2Proof.Machine

/-! ### Host commands -/

/-- What START does while no fault is latched (R161): idempotent. -/
def startBody (s : State) : State :=
  if s.started then s else { s with started := true, txIdx := .front0 }

/-- START (R161). -/
def execStart (s : State) : Host.Outcome State Fault Refusal := command 0x9 startBody s

/-- The completing step of SET for the frame `ps` (R162, R166). -/
def setFrame (ps : List Triple) (s : State) : State :=
  { s with
    bufBack := encFrame s.cfg ps
    backId := s.backId + 1
    setCount := s.setCount + 1
    backState := .readyToCopy }

/-- SET must wait (R164); before START it never does (R165). -/
def setHolds (s : State) : Bool := s.started && s.backState != .free

/-- What SET does while no fault is latched (R162): the count check (R163), then the hold (R164), then a read that has no
step leaves the host stuck (R52), then the frame is encoded. -/
def setBody (s : State) : State :=
  if s.frameCount.toNat ≠ s.cfg.n then raise .countMismatch s
  else if setHolds s then hostWaits (cmdAccess 0xA) s
  else if memReadable s.cfg s.frameAddr.toNat (3 * s.cfg.n) then setFrame (framePixels s) s
  else hostWaits (cmdAccess 0xA) s

/-- SET (R162). -/
def execSet (s : State) : Host.Outcome State Fault Refusal := command 0xA setBody s

/-! ### Engines. A step that is not enabled leaves the state as it is. -/

/-- TXDONE is enabled iff started and not faulted (R168). -/
def txDoneEnabled (s : State) : Bool := s.started && s.fault.isNone

/-- TXDONE (R168): IRQ_OVERRUN is checked before COPY_LATE (R196). -/
def txDone (s : State) : State :=
  if txDoneEnabled s then
    if s.txcPending.isSome then raise .irqOverrun s
    else if s.copy.isSome then raise .copyLate s
    else
      { s with
        wire := s.wire ++ [s.buf (.front s.txIdx)]
        txcPending := some s.txIdx
        txIdx := s.txIdx.other }
  else s

/-- COPYDONE is enabled iff a copy is in flight and not faulted (R172). -/
def copyDoneEnabled (s : State) : Bool := s.copy.isSome && s.fault.isNone

/-- The end of a copy (R172): it is no longer in flight, and the copy-complete event is pending. -/
def copyEnd (s : State) : State := { s with copy := none, cpcPending := true }

/-- COPYDONE (R172). -/
def copyDone (s : State) : State :=
  match s.fault, s.copy with
  | none, some c => copyEnd (s.setBuf (.front c.dst) (s.buf c.src))
  | _, _ => s

/-- DMAERR is enabled where DMA may fail and TXDONE or COPYDONE is enabled (R178). -/
def dmaErrEnabled (s : State) : Bool := s.cfg.dmaMayFail && (txDoneEnabled s || copyDoneEnabled s)

/-- DMAERR (R178): the platform reports an error in place of an enabled TXDONE or COPYDONE. -/
def dmaErr (s : State) : State := if dmaErrEnabled s then raise .dmaError s else s

/-! ### Handlers of CTRL -/

/-- The end of every transmit-complete handling of FRONT i (R170): the event is cleared, the flip is counted. -/
def txcEnd (s : State) : State := { s with txcPending := none, flipCount := s.flipCount + 1 }

/-- The transmit-complete handler for FRONT i (R170). -/
def txcHandler (i : Front) (s : State) : State :=
  if s.backState = .readyToCopy then
    if s.copy.isSome then raise .copyLate s
    else txcEnd ({ s with copy := some ⟨.back, i⟩, backState := .copying }.setFrontId i s.backId)
  else if s.frontId .front0 ≠ s.frontId .front1 then
    if s.copy.isSome then raise .copyLate s
    else txcEnd ({ s with copy := some ⟨.front i.other, i⟩ }.setFrontId i (s.frontId i.other))
  else txcEnd s

/-- The copy-complete handler (R173). -/
def cpcHandler (s : State) : State :=
  { s with
    cpcPending := false
    backState := if s.backState = .copying then .free else s.backState }

/-- CTRL is enabled iff an event is pending and not faulted (R169). -/
def ctrlEnabled (s : State) : Bool := s.fault.isNone && (s.cpcPending || s.txcPending.isSome)

/-- CTRL (R169): copy-complete before transmit-complete; not enabled while faulted. -/
def ctrlStep (s : State) : State :=
  match s.fault with
  | some _ => s
  | none =>
    if s.cpcPending then cpcHandler s
    else match s.txcPending with
      | some i => txcHandler i s
      | none => s

end Sys2Proof.Machine
end

