-- ==== Sys2Proof/Machine/Flags.lean ====
section
/-! DEFINITION. STATUS, the block's only status bits (10_state R24, R47): each field is computed from the state. -/

namespace Sys2Proof.Machine

/-- BSTATE (R24): the encoding 3 is never read. -/
def backStateCode : BackState → BitVec 2
  | .free => 0
  | .readyToCopy => 1
  | .copying => 2

/-- The cause codes of R191. -/
def causeCode : Cause → BitVec 4
  | .countMismatch => 1
  | .illegalCmd => 2
  | .blendDiv0 => 3
  | .blendRange => 4
  | .copyLate => 5
  | .irqOverrun => 6
  | .dmaError => 7

/-- FCAUSE (R24): the cause code of the latched fault, 0 if none. -/
def faultCode : Option Cause → BitVec 4
  | none => 0
  | some c => causeCode c

/-- TXIDX as a bit (R24). -/
def frontBit : Front → Bool
  | .front0 => false
  | .front1 => true

/-- The STATUS word (R24): from bit 31 down, 20 reserved bits, FCAUSE, FAULTED, CPC_PEND, TXC_PEND, COPY_BUSY, TXIDX,
STARTED, BSTATE. -/
def statusWord (s : State) : Word :=
  0#20 ++ faultCode s.fault ++ BitVec.ofBool s.fault.isSome ++ BitVec.ofBool s.cpcPending
    ++ BitVec.ofBool s.txcPending.isSome ++ BitVec.ofBool s.copy.isSome ++ BitVec.ofBool (frontBit s.txIdx)
    ++ BitVec.ofBool s.started ++ backStateCode s.backState

end Sys2Proof.Machine
end

