-- ==== Sys2Proof/Machine/Bus.lean ====
section
/-! DEFINITION. Bus accesses and command dispatch (40_bus_access R90 to R97), and illegal command words (30_encoding R75). -/

namespace Sys2Proof.Machine

/-- An illegal command word raises ILLEGAL_CMD (R75, R94); while faulted it holds as every command does. -/
def execIllegal (w : Word) (s : State) : Host.Outcome State Fault Refusal := command w (raise .illegalCmd) s

/-- `dispatch(d)` (R94): a WR to CMD performs the command that the whole word `d` selects (R73). -/
def dispatch (d : Word) (s : State) : Host.Outcome State Fault Refusal :=
  match d.toNat with
  | 0x1 => execRgb2hsv s
  | 0x2 => execHsv2rgb s
  | 0x3 => execPowc s
  | 0x4 => execLogc s
  | 0x5 => execToi s
  | 0x6 => execFromi s
  | 0x7 => execBlend s
  | 0x8 => execChbright s
  | 0x9 => execStart s
  | 0xA => execSet s
  | _ => execIllegal d s

/-- A write to a register other than CMD (R90): bits above the register's width are dropped; a write to a read-only or
reserved offset changes nothing (R92). -/
def writeReg (off : BitVec 12) (d : Word) (s : State) : State :=
  match off.toNat with
  | 0x08 => { s with opa := d.setWidth 24 }
  | 0x0C => { s with opb := d.setWidth 24 }
  | 0x10 => { s with factor := d.setWidth 8 }
  | 0x14 => { s with elapsed := d }
  | 0x18 => { s with total := d }
  | 0x20 => { s with frameAddr := d }
  | 0x24 => { s with frameCount := d }
  | _ => s

/-- The value a read returns (R91); a reserved offset reads as 0 (R93). -/
def readReg (off : BitVec 12) (s : State) : Word :=
  match off.toNat with
  | 0x00 => 0
  | 0x04 => statusWord s
  | 0x08 => s.opa.setWidth 32
  | 0x0C => s.opb.setWidth 32
  | 0x10 => s.factor.setWidth 32
  | 0x14 => s.elapsed
  | 0x18 => s.total
  | 0x1C => s.result.setWidth 32
  | 0x20 => s.frameAddr
  | 0x24 => s.frameCount
  | 0x28 => s.setCount
  | 0x2C => s.flipCount
  | 0x30 => s.backId
  | 0x34 => s.frontId0
  | 0x38 => s.frontId1
  | 0x3C => BitVec.ofNat 32 s.cfg.n
  | 0x40 => BitVec.ofNat 32 s.cfg.resetBytes
  | _ => 0

/-- WR (R90). A misaligned access has no step (R58): the host waits at it. -/
def execWr (off : BitVec 12) (d : Word) (s : State) : Host.Outcome State Fault Refusal :=
  if alignedOff off = false then .next (hostWaits (encode (.wr off d)) s)
  else if off = 0 then dispatch d s
  else .next (writeReg off d s)

/-- RD (R91): the host gets the value, and no state of the block changes (R61). A misaligned access has no step
(R58). -/
def execRd (off : BitVec 12) (s : State) : Host.Outcome State Fault Refusal :=
  if alignedOff off = false then .next (hostWaits (encode (.rd off)) s)
  else .next { s with readData := readReg off s }

end Sys2Proof.Machine
end

