-- ==== Sys2Proof/Machine/Dispatch.lean ====
section
/-! DEFINITION. `exec`: one arm per instruction, each one call of its meaning. -/

namespace Sys2Proof.Machine

def exec (i : Instr) (s : State) : Host.Outcome State Fault Refusal :=
  match i with
  | .rgb2hsv => Sys2Proof.Machine.execRgb2hsv s
  | .hsv2rgb => Sys2Proof.Machine.execHsv2rgb s
  | .powc => Sys2Proof.Machine.execPowc s
  | .logc => Sys2Proof.Machine.execLogc s
  | .toi => Sys2Proof.Machine.execToi s
  | .fromi => Sys2Proof.Machine.execFromi s
  | .blend => Sys2Proof.Machine.execBlend s
  | .chbright => Sys2Proof.Machine.execChbright s
  | .start => Sys2Proof.Machine.execStart s
  | .set => Sys2Proof.Machine.execSet s
  | .wr off data => Sys2Proof.Machine.execWr off data s
  | .rd off => Sys2Proof.Machine.execRd off s
  | .illegal w => Sys2Proof.Machine.execIllegal w s

end Sys2Proof.Machine
end

