-- ==== Sys2Proof/Machine/Agents.lean ====
section
/-! DEFINITION. The step of the HOST agent (00_scope R13, 40_bus_access R97), the choice of the agent that takes the next step,
and how an access is placed for the host to issue it next. -/

namespace Sys2Proof.Machine

/-- `accessAt c dir addr size data` is the access to the bus address `addr` (R71: `off = addr − BASE`). -/
def accessAt (c : Cfg) (dir : Dir) (addr : Word) (size : Nat) (data : Word) : Access :=
  ⟨dir, addr - c.base, size, data⟩

/-- The bus address of an access (R51). -/
def accessAddr (c : Cfg) (a : Access) : Word := c.base + a.off

/-- The host issues, or goes on waiting in, the access `a` (R97). A size or alignment that is not admitted has no step:
the host is stuck at the access (R58). An access outside the block has no meaning here (R71). -/
def issue (a : Access) (s : State) : Host.Outcome State Fault Refusal :=
  match decodeAccess a with
  | .ok i => exec i { s with hostNow := none }
  | .error .outsideBlock => .refused .outsideBlock
  | .error .badSize => .next (hostWaits a s)
  | .error .misaligned => .next (hostWaits a s)

/-- The host stores a byte to system memory (R16 `MemWrite`, R52: outside the block). -/
def hostStore (addr : Word) (v : Byte) (s : State) : Host.Outcome State Fault Refusal :=
  if memOK s.cfg addr.toNat 1 then .next { s with mem := writeByte s.mem addr.toNat v }
  else .fault .noSystemMemory

/-- A step of HOST: it goes on with the access it waits in (R94: it "issues nothing else"), or does what comes next. -/
def hostStep (s : State) : Host.Outcome State Fault Refusal :=
  match s.hostNow, s.hostProg with
  | some a, _ => issue a s
  | none, [] => .next s
  | none, .access a :: rest => issue a { s with hostProg := rest }
  | none, .store addr v :: rest => hostStore addr v { s with hostProg := rest }

/-- Who takes the next step (R13): the next turn of the schedule, or a free draw when the schedule is used up. -/
def nextTurn (s : State) : Turn :=
  match s.turns with
  | t :: _ => t
  | [] => Config.freeTurn s.draws

/-- The schedule after that choice. -/
def afterTurn (s : State) : State :=
  match s.turns with
  | _ :: rest => { s with turns := rest }
  | [] => { s with draws := s.draws + 1 }

/-- The step of one agent. -/
def agentStep (t : Turn) (s : State) : Host.Outcome State Fault Refusal :=
  match t with
  | .host => hostStep s
  | .ctrl => .next (ctrlStep s)
  | .txdma => .next (txDone s)
  | .cpydma => .next (copyDone s)
  | .dmaerr => .next (dmaErr s)

/-- The host is about to issue `a`, and has the next turn. -/
def placeAccess (a : Access) (s : State) : State := { s with hostNow := some a, turns := .host :: s.turns }

/-- Reset of a block that has run (R194, R220): every component takes its reset value; the configuration and system memory
stay. What the host does next and the schedule are given from outside (assumption 14). -/
def resetBlock (prog : List HostAct) (turns : List Turn) (s : State) : State :=
  { State.resetOf s.cfg with mem := s.mem, hostProg := prog, turns := turns }

/-- A configuration that is not well-formed gets no run (R9); it is not checked later (R223). -/
def boot (c : Cfg) : Host.Outcome State Fault Refusal :=
  if c.wf then .next (State.resetOf c) else .refused .illFormedConfig

end Sys2Proof.Machine
end

