-- ==== Sys2Proof/Machine/Step.lean ====
section
/-! DEFINITION. One step of the whole machine: an interleaving of atomic steps of the agents (20_memory R64). -/

namespace Sys2Proof.Machine

/-- One atomic step of the agent whose turn it is (R13). An agent that has no step leaves the state as it is. -/
def step (s : State) : Host.Outcome State Fault Refusal := agentStep (nextTurn s) (afterTurn s)

/-- The state in which the very next step issues the opcode-table word `w` (assumption 7). -/
def State.withFetchWord (s : State) (nbits w : Nat) : State := placeAccess (tableAccess nbits w) s

end Sys2Proof.Machine
end

