-- ==== Sys2Proof/Machine/Line.lean ====
section
/-! DEFINITION. What the line carries (42_encoder R147, 43_driver R167, 60_exceptions R193, 70_reset R222), as a function of
the state. -/

namespace Sys2Proof

/-- Free value: the line after a fault, which "is not specified" (R193; 93 I-7: any value). -/
opaque Config.lineAfterFault : Machine.State → Nat → Bool

namespace Machine

/-- The wire bits of the buffer being sent (R147). -/
def currentBits (s : State) : List Bool := serialise (s.buf (.front s.txIdx))

/-- The level of the line in serial clock `k` of a fault-free state, high being `true`: low before START, then bit `k` of
the buffer being sent; none from the end of that buffer on, where the next one follows (R147, R167, R222). -/
def liveBit (s : State) (k : Nat) : Option Bool := if s.started then (currentBits s)[k]? else some false

/-- The level of the line in serial clock `k` of a state; after a fault a free value. -/
def lineBit (s : State) (k : Nat) : Option Bool :=
  match s.fault with
  | none => liveBit s k
  | some _ => some (Config.lineAfterFault s k)

/-- The wire bits that the line has carried since START up to the buffer being sent: the buffers of the wire history, one
after the other with no gap (R41, R167). -/
def lineHistory (s : State) : List Bool := s.wire.flatMap serialise

end Machine

end Sys2Proof
end

