-- ==== Sys2Proof/Machine/Pseudo.lean ====
section
/-! DEFINITION. The pseudo-instructions of 30_encoding R79: each is exactly its expansion into bus accesses, so that other
agents may step between its lines. -/

namespace Sys2Proof.Machine

/-- The pseudo-instructions of R79. -/
inductive Pseudo where
  | rgb2hsv (rgb : Triple)
  | hsv2rgb (hsv : Triple)
  | powc (x : Byte)
  | logc (x : Byte)
  | toi (rgb : Triple)
  | fromi (hsw : Triple)
  | blend (a b : Triple) (e t : Word)
  | chbright (rgb : Triple) (f : Byte)
  | setFrame (addr count : Word)
  | start
  | getSetCount
  | getFlipCount
  | getResult
  deriving DecidableEq, Repr

/-- `WR off, d` as the host issues it. -/
def wrAct (off : BitVec 12) (d : Word) : HostAct := .access ⟨.write, off.setWidth 32, 4, d⟩

/-- `RD off` as the host issues it. -/
def rdAct (off : BitVec 12) : HostAct := .access ⟨.read, off.setWidth 32, 4, 0⟩

/-- `CMD i`: the WR to CMD of the command word of `i` (R73). -/
def cmdAct (i : Instr) : HostAct := .access (encode i)

/-- A triple as the data word of a WR to OPA or OPB (R17). -/
def tripleWord (t : Triple) : Word := (packTriple t).setWidth 32

/-- The expansions of R79. -/
def expand : Pseudo → List HostAct
  | .rgb2hsv p => [wrAct 0x08 (tripleWord p), cmdAct .rgb2hsv]
  | .hsv2rgb p => [wrAct 0x08 (tripleWord p), cmdAct .hsv2rgb]
  | .powc x => [wrAct 0x08 (x.setWidth 32), cmdAct .powc]
  | .logc x => [wrAct 0x08 (x.setWidth 32), cmdAct .logc]
  | .toi p => [wrAct 0x08 (tripleWord p), cmdAct .toi]
  | .fromi p => [wrAct 0x08 (tripleWord p), cmdAct .fromi]
  | .blend a b e t =>
    [wrAct 0x08 (tripleWord a), wrAct 0x0C (tripleWord b), wrAct 0x14 e, wrAct 0x18 t, cmdAct .blend]
  | .chbright p f => [wrAct 0x08 (tripleWord p), wrAct 0x10 (f.setWidth 32), cmdAct .chbright]
  | .setFrame addr count => [wrAct 0x20 addr, wrAct 0x24 count, cmdAct .set]
  | .start => [cmdAct .start]
  | .getSetCount => [rdAct 0x28]
  | .getFlipCount => [rdAct 0x2C]
  | .getResult => [rdAct 0x1C]

end Sys2Proof.Machine
end

