-- ==== Sys2Proof/Safety.lean ====
section
/-! DEFINITION. What claims are stated in terms of: the invariant of the block, the states that runs reach, buffer ownership
(10_state R46), runs and fairness (70_reset R226), the end of a host program (70_reset R235), the parts of the state that frames
speak of, the properties of the curves that a claim may assume (00_scope R11), and the timing table (70_reset R233), which no step
reads. -/

namespace Sys2Proof.Machine

/-! ### Parts of the state -/

/-- The operand registers of R21 are the same. -/
def SameOperands (s t : State) : Prop :=
  t.opa = s.opa ∧ t.opb = s.opb ∧ t.factor = s.factor ∧ t.elapsed = s.elapsed ∧ t.total = s.total
    ∧ t.frameAddr = s.frameAddr ∧ t.frameCount = s.frameCount

/-- What the engines and handlers own is the same: front buffers and their ids, flip count, wire history, events and
the copy in flight. -/
def SameEngines (s t : State) : Prop :=
  t.bufFront0 = s.bufFront0 ∧ t.bufFront1 = s.bufFront1 ∧ t.frontId0 = s.frontId0 ∧ t.frontId1 = s.frontId1
    ∧ t.flipCount = s.flipCount ∧ t.wire = s.wire ∧ t.txcPending = s.txcPending ∧ t.cpcPending = s.cpcPending
    ∧ t.copy = s.copy

/-- What SET writes is the same: the back buffer, its id and state, and the set count. -/
def SameBack (s t : State) : Prop :=
  t.bufBack = s.bufBack ∧ t.backId = s.backId ∧ t.setCount = s.setCount ∧ t.backState = s.backState

/-- What START writes is the same. -/
def SameRing (s t : State) : Prop := t.started = s.started ∧ t.txIdx = s.txIdx

/-- The driver state (43_driver) is the same. -/
def SameDriver (s t : State) : Prop := SameEngines s t ∧ SameBack s t ∧ SameRing s t

/-- The configuration, the rest of the host program and the schedule are the same. -/
def SameSurroundings (s t : State) : Prop :=
  t.cfg = s.cfg ∧ t.hostProg = s.hostProg ∧ t.turns = s.turns ∧ t.draws = s.draws

/-- Every byte of system memory reads the same. -/
def SameMemory (s t : State) : Prop := ∀ a, readByte t.mem a = readByte s.mem a

/-- The commands of R70 (b) and the illegal command words: what a WR to CMD carries. -/
def isCommand : Instr → Bool
  | .wr _ _ | .rd _ => false
  | .rgb2hsv | .hsv2rgb | .powc | .logc | .toi | .fromi | .blend | .chbright | .start | .set | .illegal _ => true

/-- The colour commands (41_color). -/
def isColour : Instr → Bool
  | .rgb2hsv | .hsv2rgb | .powc | .logc | .toi | .fromi | .blend | .chbright => true
  | .start | .set | .wr _ _ | .rd _ | .illegal _ => false

/-! ### The invariant -/

/-- `b` is the encoding of some frame of N pixels (R145): no torn or partly written buffer. -/
def EncodesFrame (c : Cfg) (b : List Byte) : Prop := ∃ ps : List Triple, ps.length = c.n ∧ b = encFrame c ps

/-- The front buffer that the transmit-complete handler last handled, or will be taken to have handled before the first
time (R171): the one that is neither waiting for it nor being sent after an unhandled event. -/
def lastHandled (s : State) : Front :=
  match s.txcPending with
  | some i => i.other
  | none => s.txIdx.other

/-- What holds of a copy in flight (R174). -/
def CopyOk (s : State) (k : Copy) : Prop :=
  s.started = true ∧ k.dst = s.txIdx.other ∧ s.txcPending = none ∧ s.cpcPending = false
    ∧ (k.src = .back ∧ s.backState = .copying ∨ k.src = .front s.txIdx ∧ s.backState ≠ .copying)

/-- The invariant of the block: R9, the canonical form of memory, R40, R41, R165, R166, R171 and R174. -/
structure Inv (s : State) : Prop where
  cfgWf : s.cfg.wf = true
  memWf : Memory.wf s.mem = true
  buffers : ∀ b : Buf, EncodesFrame s.cfg (s.buf b)
  wire : ∀ b ∈ s.wire, EncodesFrame s.cfg b
  ids : s.setCount = s.backId
  copy : ∀ k, s.copy = some k → CopyOk s k
  copying : s.backState = .copying → (∃ i, s.copy = some ⟨.back, i⟩) ∨ s.cpcPending = true
  pending : ∀ i, s.txcPending = some i → s.started = true ∧ s.txIdx = i.other
  unstarted : s.started = false →
    s.backState ≠ .copying ∧ s.cpcPending = false ∧ s.txIdx = .front0 ∧ s.wire = []
  fresh : s.backState ≠ .readyToCopy → s.frontId0 ≠ s.frontId1 → s.frontId (lastHandled s) = s.backId

/-- The states that runs reach from reset (R220), further resets (R194) included, for every well-formed configuration, every content of system memory,
every host program and every schedule. -/
inductive Reachable : State → Prop where
  | boot (c : Cfg) (m : Memory) (prog : List HostAct) (turns : List Turn) :
      c.wf = true → Memory.wf m = true →
      Reachable { State.resetOf c with mem := m, hostProg := prog, turns := turns }
  | step (s t : State) : Reachable s → step s = .next t → Reachable t
  | reset (s : State) (prog : List HostAct) (turns : List Turn) : Reachable s → Reachable (resetBlock prog turns s)

/-! ### Ownership -/

/-- The owners of R46. -/
inductive Owner where
  | application
  | queued
  | dmaCopy
  | dmaTransmit
  | idle
  deriving DecidableEq, Repr

/-- Ownership is a function of the state (R46). -/
def owner (s : State) : Buf → Owner
  | .back =>
    match s.backState with
    | .free => .application
    | .readyToCopy => .queued
    | .copying => .dmaCopy
  | .front i =>
    if s.copy.any (fun k => k.dst == i) then .dmaCopy
    else if s.started && s.txIdx == i then .dmaTransmit
    else .idle

/-! ### Runs and fairness (70_reset R226) -/

/-- An infinite run in which the agents step in the order `sched`. The schedule is the argument here, not the one in the
state: `agentStep t` is the step of a state whose next turn is `t` (`step_turn`). -/
def IsRun (sched : Nat → Turn) (r : Nat → State) : Prop := ∀ k, agentStep (sched k) (r k) = .next (r (k + 1))

/-- Weak fairness for the agent `t`, whose step is enabled where `en` says so: "an agent whose step stays enabled
eventually takes it" (R226). -/
def WeaklyFair (t : Turn) (en : State → Bool) (sched : Nat → Turn) (r : Nat → State) : Prop :=
  ∀ k : Nat, (∀ j : Nat, k ≤ j → en (r j) = true) → ∃ j : Nat, k ≤ j ∧ sched j = t

/-- A run that is weakly fair for TXDMA, CPYDMA and CTRL (R226): the premise of a liveness claim. -/
structure FairRun (sched : Nat → Turn) (r : Nat → State) : Prop where
  run : IsRun sched r
  txdma : WeaklyFair .txdma txDoneEnabled sched r
  cpydma : WeaklyFair .cpydma copyDoneEnabled sched r
  ctrl : WeaklyFair .ctrl ctrlEnabled sched r

/-- No state of the run is faulted: the premise "a fault-free run" of R176. -/
def FaultFree (r : Nat → State) : Prop := ∀ k, (r k).fault = none

/-! ### The end of a host program (70_reset R235) -/

/-- The bus access that a step of HOST issues: the one it waits in, or the next of its program (R97). -/
def hostAccess (s : State) : Option Access :=
  match s.hostNow, s.hostProg with
  | some a, _ => some a
  | none, .access a :: _ => some a
  | none, _ => none

/-- Whether an act of the host is a bus access. -/
def isAccess : HostAct → Bool
  | .access _ => true
  | .store _ _ => false

/-- HOST has a bus access that has not completed: one that it waits in, held or stuck, or one that is still to come. -/
def accessesLeft (s : State) : Bool := s.hostNow.isSome || s.hostProg.any isAccess

/-- HOST has completed its last bus access, and no fault is latched: a faulted state is never an end (R235). -/
def programEnded (s : State) : Bool := !accessesLeft s && s.fault.isNone

/-- The host program ends at state `k` of a run: "the first state in which HOST has completed its last bus access"
(R235). -/
def EndsAt (r : Nat → State) (k : Nat) : Prop :=
  programEnded (r k) = true ∧ ∀ j : Nat, j < k → programEnded (r j) = false

/-- The offsets of the registers of R91. -/
def registerOffsets : List (BitVec 12) :=
  [0x00, 0x04, 0x08, 0x0C, 0x10, 0x14, 0x18, 0x1C, 0x20, 0x24, 0x28, 0x2C, 0x30, 0x34, 0x38, 0x3C, 0x40]

/-- The observation at the end of a host program: every register value of R91, and the wire so far (R235). -/
def observation (s : State) : List Word × List (List Byte) := (registerOffsets.map fun off => readReg off s, s.wire)

/-- A weakly fair continuation from `s` (R235, R226), one that faults included. -/
structure Continuation (s : State) (sched : Nat → Turn) (r : Nat → State) : Prop where
  start : r 0 = s
  fair : FairRun sched r

/-- "Every continuation's wire contains" `b` (R235): in one that faults, from before the fault. -/
def EventuallySent (s : State) (b : List Byte) : Prop :=
  ∀ sched r, Continuation s sched r → ∃ k, b ∈ (r k).wire

/-- In every continuation, "from some entry on, every entry is" `b` (R235): there is such an entry, and every entry from it
on is `b`. -/
def EventuallyOnly (s : State) (b : List Byte) : Prop :=
  ∀ sched r, Continuation s sched r → ∃ n : Nat, (∃ k, n < (r k).wire.length) ∧
    ∀ (k i : Nat) (x : List Byte), n ≤ i → (r k).wire[i]? = some x → x = b

/-! ### Properties of the curves that the spec names and does not assert (00_scope R11) -/

/-- `POWER_MONO` of `c.power`, `LOG_MONO` of `c.log`: the table is non-decreasing. -/
def CurveMono (table : Vector Byte 256) : Prop :=
  ∀ x y : Byte, x.toNat ≤ y.toNat → (curve table x).toNat ≤ (curve table y).toNat

/-- `POWER_ENDS`, `LOG_ENDS`: 0 at 0 and 255 at 255. -/
def CurveEnds (table : Vector Byte 256) : Prop := curve table 0 = 0 ∧ curve table 255 = 255

/-- `ROUNDTRIP(v)`: POWER[LOG[v]] = v. -/
def RoundTrip (c : Cfg) (v : Byte) : Prop := curve c.power (curve c.log v) = v

/-! ### Timing (no step reads it) -/

/-- `bits` wire bits take `x` seconds: one wire bit takes 1 / SPI_HZ (R151, R233). -/
def Lasts (p : Params) (bits : Nat) (x : ℝ) : Prop := x = bits / p.spiHz.val

/-- A copy that takes `copy` seconds after a handler latency of `handler` seconds meets the premise R224: it ends before the
ring has sent the buffer now on the wire. -/
def CopyInTime (p : Params) (c : Cfg) (copy handler : ℝ) : Prop := copy < (8 * c.frameLen : ℕ) / p.spiHz.val - handler

/-- A handler that runs `handler` seconds after its event meets the premise R225: it runs before the ring has sent the next
buffer. -/
def HandlerInTime (p : Params) (c : Cfg) (handler : ℝ) : Prop := handler < (8 * c.frameLen : ℕ) / p.spiHz.val

/-- Wire bits of one cell, one channel, one pixel, and of the high time of a 1 and of a 0 (R151, R233). -/
def cellBits : Nat := 12
def highBits (x : Bool) : Nat := if x then 8 else 4
def channelBits : Nat := 96
def pixelBits : Nat := 288

/-- Wire bits of one encoded frame, and of its reset tail (R148, R233). -/
def frameBits (c : Cfg) : Nat := 8 * c.frameLen
def tailBits (c : Cfg) : Nat := 8 * c.resetBytes

end Sys2Proof.Machine
end

