-- ==== Sys2Proof/Certificates/Slice0/Obligations.lean ====
section
/-! DEFINITION. The statements for the provers. Each docstring names the rule of spec/ it formalises. -/

open Sys2Proof Sys2Proof.Machine

/-! ### Encoding (30_encoding) -/

/-- R71 to R75: decoding the access that `encode` gives a well-formed instruction gives the instruction back. -/
def Obligations.DecodeOfEncode : Prop :=
  ∀ i : Instr, i.wf = true → decodeAccess (encode i) = .ok i

/-- R71, R72: an access that decodes decodes to a well-formed instruction, whose encoding is the access again (the data of
a read, which is returned and not given, apart). -/
def Obligations.EncodeOfDecode : Prop :=
  ∀ (a : Access) (i : Instr), decodeAccess a = .ok i →
    i.wf = true ∧ encode i = { a with data := if a.dir = .read then 0 else a.data }

/-- R71: which bus accesses are admitted, by address, and what they select; an access that is not admitted is no
instruction, and one that lies outside the block is refused as such (the refusal is the model's: R71 gives it no
meaning, assumption 13; that `addr`, the first byte, decides alone what lies outside is the model's too: assumption 17). -/
def Obligations.AccessAdmission : Prop :=
  ∀ (c : Cfg) (dir : Dir) (addr : Word) (size : Nat) (data : Word),
    (size = 4 ∧ addr.toNat % 4 = 0 ∧ c.base.toNat ≤ addr.toNat ∧ addr.toNat ≤ c.base.toNat + 0xFFC →
      decodeAccess (accessAt c dir addr size data) =
        .ok (match dir with
          | .read => .rd ((addr - c.base).setWidth 12)
          | .write => if addr = c.base then decodeCommand data else .wr ((addr - c.base).setWidth 12) data)) ∧
    (¬ (size = 4 ∧ addr.toNat % 4 = 0 ∧ c.base.toNat ≤ addr.toNat ∧ addr.toNat ≤ c.base.toNat + 0xFFC) →
      ∃ e, decodeAccess (accessAt c dir addr size data) = .error e) ∧
    (addr.toNat < c.base.toNat ∨ c.base.toNat + 0xFFF < addr.toNat →
      ∀ s : State, issue (accessAt c dir addr size data) s = .refused .outsideBlock)

/-- R58: at an access of another width, or a misaligned one, the host is stuck: the step in which it goes on waiting in the
access changes nothing, the step in which its program comes to the access leaves it waiting there, and the block is as
before (that being stuck is a next state in which the host waits is the model's choice: assumption 6; that `addr`
decides alone which access is to the block is too: assumption 17). -/
def Obligations.MisalignedAccessIsStuck : Prop :=
  ∀ (s : State) (dir : Dir) (addr : Word) (size : Nat) (data : Word) (ts : List Turn),
    s.turns = .host :: ts →
    s.cfg.base.toNat ≤ addr.toNat → addr.toNat ≤ s.cfg.base.toNat + 0xFFF → (size ≠ 4 ∨ addr.toNat % 4 ≠ 0) →
    (s.hostNow = some (accessAt s.cfg dir addr size data) → step s = .next { s with turns := ts }) ∧
    ∀ rest, s.hostNow = none → s.hostProg = .access (accessAt s.cfg dir addr size data) :: rest →
      step s = .next { s with
        turns := ts, hostProg := rest, hostNow := some (accessAt s.cfg dir addr size data) }

/-- R75: the illegal words are those with MBZ ≠ 0 or OP in 0x0, 0xB to 0xF; writing one to CMD latches ILLEGAL_CMD and
changes nothing else; every other word is a command. -/
def Obligations.IllegalWordsFault : Prop :=
  ∀ w : Word,
    (w.toNat / 16 ≠ 0 ∨ w.toNat % 16 = 0 ∨ 0xB ≤ w.toNat % 16 →
      decodeCommand w = .illegal w ∧
      ∀ s : State, s.fault = none →
        exec (.wr 0 w) s = .next { s with fault := some .illegalCmd } ∧
        exec (.illegal w) s = .next { s with fault := some .illegalCmd }) ∧
    (w.toNat / 16 = 0 ∧ 1 ≤ w.toNat % 16 ∧ w.toNat % 16 ≤ 0xA → ∀ v, decodeCommand w ≠ .illegal v)

/-- R70, R79, R94: a WR to CMD performs the command that its data word selects. -/
def Obligations.CommandWriteIsCommand : Prop :=
  ∀ (d : Word) (s : State), exec (.wr 0 d) s = exec (decodeCommand d) s

/-- Words and tuples written out from R71 to R75 decode to the instructions they stand for. -/
def Obligations.WordsFromTheSpec : Prop :=
  decodeAccess ⟨.write, 0x00, 4, 0x00000001⟩ = .ok .rgb2hsv ∧
  decodeAccess ⟨.write, 0x00, 4, 0x0000000A⟩ = .ok .set ∧
  decodeAccess ⟨.write, 0x08, 4, 0x00C86432⟩ = .ok (.wr 0x08 0x00C86432) ∧
  decodeAccess ⟨.read, 0x2C, 4, 0⟩ = .ok (.rd 0x2C) ∧
  decodeAccess ⟨.write, 0x00, 4, 0x00000000⟩ = .ok (.illegal 0)

/-! ### Steps, reset and configuration -/

/-- R94, R97: when it is HOST's turn and the access it issues, or goes on waiting in, decodes, the step is `exec` of the
decoded instruction, with the access taken from the host (what comes next in its program, or what it waited in) and the
turn taken from the schedule. -/
def Obligations.StepRunsDecodedAccess : Prop :=
  ∀ (s : State) (a : Access) (i : Instr) (ts : List Turn), s.turns = .host :: ts → decodeAccess a = .ok i →
    (s.hostNow = some a → step s = exec i { s with hostNow := none, turns := ts }) ∧
    (∀ rest, s.hostNow = none → s.hostProg = .access a :: rest →
      step s = exec i { s with hostNow := none, hostProg := rest, turns := ts })

/-- R13: a step is a step of the agent whose turn it is: the next of the schedule or, when that is used up, a free
choice (the schedule in the state is the model's, assumption 3). -/
def Obligations.StepRunsScheduledAgent : Prop :=
  ∀ s : State,
    (∀ t ts, s.turns = t :: ts → step s = agentStep t { s with turns := ts }) ∧
    (s.turns = [] → step s = agentStep (Config.freeTurn s.draws) { s with draws := s.draws + 1 })

/-- R220: every component after reset, for every configuration, at the start and when a block that has run (and may be
faulted) is reset; `State.reset` is that state for the platform's. -/
def Obligations.ResetLeavesStatedValues : Prop :=
  State.reset = State.resetOf Config.platform ∧
  ∀ (c : Cfg) (s : State), (s = State.resetOf c ∨ ∃ u prog ts, u.cfg = c ∧ s = resetBlock prog ts u) →
    (s.opa = 0 ∧ s.opb = 0 ∧ s.factor = 0 ∧ s.elapsed = 0 ∧ s.total = 0 ∧ s.result = 0) ∧
    (s.frameAddr = 0 ∧ s.frameCount = 0) ∧
    (s.setCount = 0 ∧ s.flipCount = 0 ∧ s.backId = 0 ∧ s.frontId0 = 0 ∧ s.frontId1 = 0) ∧
    s.backState = .free ∧ s.started = false ∧
    (∀ b, s.buf b = encFrame c (List.replicate c.n ⟨0, 0, 0⟩)) ∧ s.wire = [] ∧
    s.txIdx = .front0 ∧ s.txcPending = none ∧ s.copy = none ∧ s.cpcPending = false ∧ s.fault = none ∧
    statusWord s = 0x00000000 ∧ s.cfg = c

/-- The invariant holds at reset, and at reset of every well-formed configuration. -/
def Obligations.ResetHasInv : Prop :=
  Inv State.reset ∧ ∀ c : Cfg, c.wf = true → Inv (State.resetOf c)

/-- R7, R9: for every configuration, SPI_HZ and T_RESET being any positive reals, what State holds of it boots into its reset
state if it is well-formed, and is refused otherwise. That every configuration is held as one `Cfg`, and every `Cfg` holds some
configuration, is about the model's own form of it (`gapBytes` in place of the two reals, assumption 2), not about R9. -/
def Obligations.BootRefusesIllFormed : Prop :=
  (∀ (p : Params) (c : Cfg), p.Describes c →
    (1 ≤ p.n ∧ 1 ≤ p.resetBytes ∧ p.tReset.val < (p.resetBytes : ℝ) * 8 / p.spiHz.val → boot c = .next (State.resetOf c)) ∧
    (¬ (1 ≤ p.n ∧ 1 ≤ p.resetBytes ∧ p.tReset.val < (p.resetBytes : ℝ) * 8 / p.spiHz.val) →
      boot c = .refused .illFormedConfig)) ∧
  (∀ p : Params, ∃ c, p.Describes c ∧ ∀ c', p.Describes c' → c' = c) ∧
  ∀ c : Cfg, ∃ p : Params, p.Describes c

/-- R198, R222, R147: before START no engine and no handler has a step, no event and no copy exists, and the line is low in
every serial clock (of a block with no fault: R193 leaves the line after a fault open). That a turn of an agent that has no
step changes nothing is the model's (assumption 3). -/
def Obligations.NothingMovesBeforeStart : Prop :=
  ∀ s : State, Inv s → s.started = false →
    s.txcPending = none ∧ s.cpcPending = false ∧ s.copy = none ∧
    (∀ t : Turn, t ≠ .host → agentStep t s = .next s) ∧
    (s.fault = none → ∀ k, lineBit s k = some false)

/-! ### Bus accesses (40_bus_access) -/

/-- R91, R93: what a read of every offset returns; it changes no state of the block (R61). That N and RESET_BYTES read
modulo 2^32 is the model's reading (assumption 11). -/
def Obligations.ReadsReturnRegisters : Prop :=
  ∀ s : State,
    (∀ p ∈ [((0x00 : BitVec 12), (0 : Word)), (0x04, statusWord s), (0x08, s.opa.setWidth 32), (0x0C, s.opb.setWidth 32),
        (0x10, s.factor.setWidth 32), (0x14, s.elapsed), (0x18, s.total), (0x1C, s.result.setWidth 32),
        (0x20, s.frameAddr), (0x24, s.frameCount), (0x28, s.setCount), (0x2C, s.flipCount), (0x30, s.backId),
        (0x34, s.frontId0), (0x38, s.frontId1), (0x3C, BitVec.ofNat 32 s.cfg.n),
        (0x40, BitVec.ofNat 32 s.cfg.resetBytes)],
      exec (.rd p.1) s = .next { s with readData := p.2 }) ∧
    ∀ off : BitVec 12, off.toNat % 4 = 0 → 0x44 ≤ off.toNat → exec (.rd off) s = .next { s with readData := 0 }

/-- R24: a read of STATUS returns the word whose every field follows, a write of it is ignored, and after reset it is 0. -/
def Obligations.StatusShowsState : Prop :=
  (∀ c : Cfg, statusWord (State.resetOf c) = 0x00000000) ∧
  ∀ s : State,
    let w := statusWord s
    exec (.rd 0x04) s = .next { s with readData := w } ∧
    (∀ d : Word, exec (.wr 0x04 d) s = .next s) ∧
    (w.extractLsb' 0 2 = match s.backState with | .free => 0 | .readyToCopy => 1 | .copying => 2) ∧
    w.extractLsb' 0 2 ≠ 3 ∧
    w.getLsbD 2 = s.started ∧
    (w.getLsbD 3 = true ↔ s.txIdx = .front1) ∧
    (w.getLsbD 4 = true ↔ s.copy ≠ none) ∧
    (w.getLsbD 5 = true ↔ s.txcPending ≠ none) ∧
    w.getLsbD 6 = s.cpcPending ∧
    (w.getLsbD 7 = true ↔ s.fault ≠ none) ∧
    (w.extractLsb' 8 4 = match s.fault with
      | none => 0 | some .countMismatch => 1 | some .illegalCmd => 2 | some .blendDiv0 => 3 | some .blendRange => 4
      | some .copyLate => 5 | some .irqOverrun => 6 | some .dmaError => 7) ∧
    w.extractLsb' 12 20 = 0

/-- R90: what a write to every offset does; bits above the register's width are dropped. -/
def Obligations.WritesStoreOperands : Prop :=
  ∀ (s : State) (d : Word),
    exec (.wr 0x00 d) s = dispatch d s ∧
    exec (.wr 0x08 d) s = .next { s with opa := d.setWidth 24 } ∧
    exec (.wr 0x0C d) s = .next { s with opb := d.setWidth 24 } ∧
    exec (.wr 0x10 d) s = .next { s with factor := d.setWidth 8 } ∧
    exec (.wr 0x14 d) s = .next { s with elapsed := d } ∧
    exec (.wr 0x18 d) s = .next { s with total := d } ∧
    exec (.wr 0x20 d) s = .next { s with frameAddr := d } ∧
    exec (.wr 0x24 d) s = .next { s with frameCount := d } ∧
    ∀ off : BitVec 12, off.toNat % 4 = 0 → off.toNat ∉ [0x00, 0x08, 0x0C, 0x10, 0x14, 0x18, 0x20, 0x24] →
      exec (.wr off d) s = .next s

/-- R92: a write to a read-only register or a reserved offset changes no state and raises nothing. -/
def Obligations.ReadOnlyWritesIgnored : Prop :=
  ∀ (s : State) (d : Word) (off : BitVec 12), off.toNat % 4 = 0 →
    (off.toNat ∈ [0x04, 0x1C, 0x28, 0x2C, 0x30, 0x34, 0x38, 0x3C, 0x40] ∨ 0x44 ≤ off.toNat) →
    exec (.wr off d) s = .next s

/-- R25 to R29, R31, R32: a read of an operand register gives the last word written, without the bits above the
register's width, which read as 0. -/
def Obligations.ReadAfterWrite : Prop :=
  ∀ (s : State) (d : Word) (p : BitVec 12 × Word),
    p ∈ [((0x08 : BitVec 12), (0x00FFFFFF : Word)), (0x0C, 0x00FFFFFF), (0x10, 0x000000FF), (0x14, 0xFFFFFFFF),
        (0x18, 0xFFFFFFFF), (0x20, 0xFFFFFFFF), (0x24, 0xFFFFFFFF)] →
    ∃ t u, exec (.wr p.1 d) s = .next t ∧ exec (.rd p.1) t = .next u ∧ u.readData = d &&& p.2

/-! ### Faults (60_exceptions) -/

/-- R95, R193: once a fault is latched no other agent steps, a command and any WR to CMD holds (the host waits inside
it, and nothing else changes: assumption 6), and RD and WR to the other registers still work. That a turn of an agent that
has no step changes nothing is the model's (assumption 3). -/
def Obligations.FaultedBlockIsHalted : Prop :=
  ∀ (s : State) (c : Cause), s.fault = some c →
    (∀ t : Turn, t ≠ .host → agentStep t s = .next s) ∧
    (∀ i : Instr, isCommand i = true → exec i s = .next { s with hostNow := some (encode i) }) ∧
    (∀ d : Word, exec (.wr 0 d) s = .next { s with hostNow := some (cmdAccess d) }) ∧
    (∀ off : BitVec 12, off.toNat % 4 = 0 → exec (.rd off) s = .next { s with readData := readReg off s }) ∧
    (∀ (off : BitVec 12) (d : Word), off.toNat % 4 = 0 → off ≠ 0 → exec (.wr off d) s = .next (writeReg off d s))

/-- R45, R190, R194: a latched fault stays, with its first cause, through every step; RESULT and the driver state keep
their values. -/
def Obligations.FaultIsSticky : Prop :=
  ∀ (s t : State) (c : Cause), s.fault = some c → step s = .next t →
    t.fault = some c ∧ t.result = s.result ∧ SameDriver s t

/-- R192, R195: the step that raises a fault makes no other change to the state of the block (the host's access and
the schedule, which are not the block's, move on). -/
def Obligations.FaultsArePrecise : Prop :=
  ∀ (s t : State) (c : Cause), s.fault = none → step s = .next t → t.fault = some c →
    ∃ now prog ts k,
      t = { s with fault := some c, hostNow := now, hostProg := prog, turns := ts, draws := k }

/-! ### Colour functions (41_color, section 1) -/

/-- R100, R101: the channels of `rgbToHsv`, as numbers: value, saturation, and the hue of the sector of the maximum
channel, red tested first, then green, then blue, modulo 256. The quotient toward zero and the wrap are the spec's own, from
general knowledge (R100, D7). -/
def Obligations.RgbToHsvFormula : Prop :=
  ∀ p : Triple,
    let r := p.c0.toNat
    let g := p.c1.toNat
    let b := p.c2.toNat
    let mx := max r (max g b)
    let mn := min r (min g b)
    let q := rgbToHsv p
    q.c2.toNat = mx ∧
    (mx = 0 → q.c0 = 0 ∧ q.c1 = 0) ∧
    (mx ≠ 0 → q.c1.toNat = 255 * (mx - mn) / mx) ∧
    (q.c1 = 0 → q.c0 = 0) ∧
    (q.c1 ≠ 0 →
      (mx = r → (q.c0.toNat : ℤ) = Int.tdiv (43 * ((g : ℤ) - b)) ((mx : ℤ) - mn) % 256) ∧
      (mx ≠ r → mx = g → (q.c0.toNat : ℤ) = (85 + Int.tdiv (43 * ((b : ℤ) - r)) ((mx : ℤ) - mn)) % 256) ∧
      (mx ≠ r → mx ≠ g → (q.c0.toNat : ℤ) = (171 + Int.tdiv (43 * ((r : ℤ) - g)) ((mx : ℤ) - mn)) % 256))

/-- R115: the ranges of `rgbToHsv`. -/
def Obligations.HueSectorRanges : Prop :=
  (∀ p : Triple,
    let r := p.c0.toNat
    let g := p.c1.toNat
    let b := p.c2.toNat
    let mx := max r (max g b)
    let q := rgbToHsv p
    q.c2.toNat = mx ∧ (q.c1 = 0 ↔ r = g ∧ g = b) ∧ (q.c1 = 0 → q.c0 = 0) ∧
    (q.c1 ≠ 0 →
      (mx = r → q.c0.toNat ≤ 43 ∨ 213 ≤ q.c0.toNat) ∧
      (mx ≠ r → mx = g → 42 ≤ q.c0.toNat ∧ q.c0.toNat ≤ 128) ∧
      (mx ≠ r → mx ≠ g → 128 ≤ q.c0.toNat ∧ q.c0.toNat ≤ 214))) ∧
  ∀ h : Byte, ∃ p : Triple, (rgbToHsv p).c0 = h

/-- R102: the channels of `hsvToRgb`, as numbers (no intermediate leaves 0 to 255). The formulas are the spec's own,
from general knowledge (assumption 10). -/
def Obligations.HsvToRgbFormula : Prop :=
  ∀ x : Triple,
    let h := x.c0.toNat
    let s := x.c1.toNat
    let v := x.c2.toNat
    let region := h / 43
    let remainder := (h - region * 43) * 6
    let p := (v * (255 - s)) >>> 8
    let q := (v * (255 - ((s * remainder) >>> 8))) >>> 8
    let t := (v * (255 - ((s * (255 - remainder)) >>> 8))) >>> 8
    let y := hsvToRgb x
    let rgb := (y.c0.toNat, y.c1.toNat, y.c2.toNat)
    region ≤ 5 ∧ remainder ≤ 252 ∧
    (s = 0 → rgb = (v, v, v)) ∧
    (s ≠ 0 →
      (region = 0 → rgb = (v, t, p)) ∧ (region = 1 → rgb = (q, v, p)) ∧ (region = 2 → rgb = (p, v, t)) ∧
      (region = 3 → rgb = (p, q, v)) ∧ (region = 4 → rgb = (t, p, v)) ∧ (region = 5 → rgb = (v, p, q)))

/-- R103: one channel of `blend`, as a number: exact product, quotient truncated toward zero, no wrap, and the result
between the two ends. -/
def Obligations.BlendFormula : Prop :=
  ∀ (a b : Triple) (e t : Nat), 1 ≤ t → e ≤ t →
    ∀ p ∈ [((blendTriple a b e t).c0, a.c0, b.c0), ((blendTriple a b e t).c1, a.c1, b.c1),
        ((blendTriple a b e t).c2, a.c2, b.c2)],
      (p.1.toNat : ℤ) = p.2.1.toNat + Int.tdiv (((p.2.2.toNat : ℤ) - p.2.1.toNat) * e) t ∧
      min p.2.1.toNat p.2.2.toNat ≤ p.1.toNat ∧ p.1.toNat ≤ max p.2.1.toNat p.2.2.toNat

/-- R116: interpolation endpoints are exact, each channel lies between the endpoints' channels, and it is monotone in e. -/
def Obligations.BlendEndpointsExact : Prop :=
  ∀ (a b : Triple) (t : Nat), 1 ≤ t →
    blendTriple a b 0 t = a ∧ blendTriple a b t t = b ∧
    ∀ f ∈ [fun x : Triple => x.c0.toNat, fun x => x.c1.toNat, fun x => x.c2.toNat], ∀ e e' : Nat, e ≤ e' → e' ≤ t →
      (min (f a) (f b) ≤ f (blendTriple a b e t) ∧ f (blendTriple a b e t) ≤ max (f a) (f b)) ∧
      (f a ≤ f b → f (blendTriple a b e t) ≤ f (blendTriple a b e' t)) ∧
      (f b ≤ f a → f (blendTriple a b e' t) ≤ f (blendTriple a b e t))

/-- R118, R119: the colour rendered at e = 0 from a keyframe colour x equals the HSV round trip exactly when ROUNDTRIP
holds at its value, and equals x only if the HSV round trip is exact too; at e = T it is that of the other keyframe. -/
def Obligations.RenderedEndpointNeedsRoundTrip : Prop :=
  ∀ (c : Cfg) (x : Triple),
    let q := rgbToHsv x
    (∀ (y : Triple) (t : Nat), 1 ≤ t →
      renderPixel c x y 0 t = fromInterp c (toInterp c x) ∧ renderPixel c y x t t = fromInterp c (toInterp c x)) ∧
    fromInterp c (toInterp c x) = hsvToRgb ⟨q.c0, q.c1, curve c.power (curve c.log q.c2)⟩ ∧
    (fromInterp c (toInterp c x) = hsvToRgb q ↔ RoundTrip c q.c2) ∧
    (fromInterp c (toInterp c x) = x → RoundTrip c q.c2 ∧ hsvToRgb q = x)

/-! ### Colour commands (41_color, section 2) -/

/-- R100, R107: RGB2HSV, with its corner cases (rgbToHsv's quotient toward zero and its wrap are the spec's, from general
knowledge: assumption 10). -/
def Obligations.Rgb2hsvResult : Prop :=
  (∀ s : State, s.fault = none →
    exec .rgb2hsv s = .next { s with result := packTriple (rgbToHsv
      ⟨s.opa.extractLsb' 16 8, s.opa.extractLsb' 8 8, s.opa.extractLsb' 0 8⟩) }) ∧
  (∀ k : Byte, rgbToHsv ⟨k, k, k⟩ = ⟨0, 0, k⟩) ∧
  rgbToHsv ⟨255, 0, 1⟩ = ⟨0, 255, 255⟩ ∧ rgbToHsv ⟨255, 0, 255⟩ = ⟨213, 255, 255⟩ ∧
  rgbToHsv ⟨255, 0, 0⟩ = ⟨0, 255, 255⟩ ∧ rgbToHsv ⟨255, 5, 0⟩ = ⟨0, 255, 255⟩ ∧
  rgbToHsv ⟨200, 100, 50⟩ = ⟨14, 191, 200⟩

/-- R108: HSV2RGB, with its corner cases. -/
def Obligations.Hsv2rgbResult : Prop :=
  (∀ s : State, s.fault = none →
    exec .hsv2rgb s = .next { s with result := packTriple (hsvToRgb
      ⟨s.opa.extractLsb' 16 8, s.opa.extractLsb' 8 8, s.opa.extractLsb' 0 8⟩) }) ∧
  (∀ h v : Byte, hsvToRgb ⟨h, 0, v⟩ = ⟨v, v, v⟩) ∧ (∀ h s : Byte, hsvToRgb ⟨h, s, 0⟩ = ⟨0, 0, 0⟩) ∧
  hsvToRgb ⟨255, 255, 255⟩ = ⟨255, 0, 15⟩ ∧ hsvToRgb ⟨85, 255, 255⟩ = ⟨3, 255, 0⟩ ∧
  hsvToRgb ⟨21, 255, 100⟩ = ⟨100, 49, 0⟩

/-- R109, R110: POWC and LOGC read the table at OPA[7:0], whatever OPA[23:8] is, and zero-extend the entry. -/
def Obligations.CurveCommandsRead : Prop :=
  ∀ (s : State) (hi : BitVec 16) (x : Byte), s.fault = none → s.opa = hi ++ x →
    exec .powc s = .next { s with result := 0#16 ++ s.cfg.power[x.toNat]'x.isLt } ∧
    exec .logc s = .next { s with result := 0#16 ++ s.cfg.log[x.toNat]'x.isLt }

/-- R104, R105, R111, R112: TOI and FROMI pass only the value channel through a curve. -/
def Obligations.InterpolatableConversions : Prop :=
  ∀ (s : State) (p : Triple), s.fault = none → s.opa = packTriple p →
    exec .toi s = .next { s with
      result := (rgbToHsv p).c0 ++ (rgbToHsv p).c1 ++ s.cfg.log[(rgbToHsv p).c2.toNat]'(rgbToHsv p).c2.isLt } ∧
    exec .fromi s = .next { s with
      result := packTriple (hsvToRgb ⟨p.c0, p.c1, s.cfg.power[p.c2.toNat]'p.c2.isLt⟩) } ∧
    toInterp s.cfg ⟨0, 0, 0⟩ = ⟨0, 0, s.cfg.log[0]⟩ ∧
    (∀ h w : Byte, fromInterp s.cfg ⟨h, 0, w⟩ =
      ⟨s.cfg.power[w.toNat]'w.isLt, s.cfg.power[w.toNat]'w.isLt, s.cfg.power[w.toNat]'w.isLt⟩)

/-- R113, R196: BLEND: BLEND_DIV0 if TOTAL = 0, else BLEND_RANGE if ELAPSED > TOTAL (nothing else changes), else the
interpolation of every channel; the ends are exact, and equal triples give themselves. -/
def Obligations.BlendResult : Prop :=
  ∀ s : State, s.fault = none →
    (s.total = 0 → exec .blend s = .next { s with fault := some .blendDiv0 }) ∧
    (s.total ≠ 0 → s.total.toNat < s.elapsed.toNat → exec .blend s = .next { s with fault := some .blendRange }) ∧
    (s.total ≠ 0 → s.elapsed.toNat ≤ s.total.toNat →
      (∀ a b : Triple, s.opa = packTriple a → s.opb = packTriple b →
        exec .blend s = .next { s with result := packTriple (blendTriple a b s.elapsed.toNat s.total.toNat) }) ∧
      (s.elapsed = 0 → exec .blend s = .next { s with result := s.opa }) ∧
      (s.elapsed = s.total → exec .blend s = .next { s with result := s.opb }) ∧
      (s.opa = s.opb → exec .blend s = .next { s with result := s.opa }))

/-- R106, R114: CHBRIGHT scales the value by f/255, floor; factor 0 gives black, factor 255 the HSV round trip, black
stays black. -/
def Obligations.ChbrightResult : Prop :=
  (∀ (s : State) (p : Triple), s.fault = none → s.opa = packTriple p →
    exec .chbright s = .next { s with result := packTriple (hsvToRgb ⟨(rgbToHsv p).c0, (rgbToHsv p).c1,
      BitVec.ofNat 8 ((rgbToHsv p).c2.toNat * s.factor.toNat / 255)⟩) } ∧
    (s.factor = 0 → exec .chbright s = .next { s with result := 0 }) ∧
    (s.factor = 255 → exec .chbright s = .next { s with result := packTriple (hsvToRgb (rgbToHsv p)) }) ∧
    (s.opa = 0 → exec .chbright s = .next { s with result := 0 })) ∧
  changeBrightness ⟨10, 20, 30⟩ 255 = ⟨9, 20, 30⟩ ∧ changeBrightness ⟨200, 100, 50⟩ 128 = ⟨100, 50, 25⟩

/-! ### The encoder (42_encoder) -/

/-- R141, R144, R145, R147, and R140 (whose order, most significant bit first, the spec takes from general knowledge): the
wire bits of an encoded frame are, for each pixel, the 12-bit cells of the source bits of red, green and blue, and then
the low tail. -/
def Obligations.WireCarriesCells : Prop :=
  ∀ (c : Cfg) (ps : List Triple),
    serialise (encFrame c ps) =
      (ps.flatMap fun p => [p.c0, p.c1, p.c2].flatMap fun ch =>
        ([7, 6, 5, 4, 3, 2, 1, 0].map fun k => ch.getLsbD k).flatMap fun x =>
          [true, true, true, true, x, x, x, x, false, false, false, false])
      ++ List.replicate (8 * c.resetBytes) false

/-- R144, R145, R146: the layout of an encoded frame: its length, pixel p at bytes 36p to 36p+35, the zero tail, and the
skeleton that every encoded buffer has. -/
def Obligations.EncodedFrameLayout : Prop :=
  ∀ (c : Cfg) (ps : List Triple), ps.length = c.n →
    (encFrame c ps).length = c.frameLen ∧
    (∀ p (h : p < ps.length), ((encFrame c ps).drop (36 * p)).take 36 =
      encChannel (ps[p]).c0 ++ encChannel (ps[p]).c1 ++ encChannel (ps[p]).c2) ∧
    (encFrame c ps).drop (36 * c.n) = List.replicate c.resetBytes 0 ∧
    ∀ k b, k < 36 * c.n → (encFrame c ps)[k]? = some b →
      (k % 3 = 0 → b.extractLsb' 4 4 = 0xF ∧ (b.extractLsb' 0 4 = 0x0 ∨ b.extractLsb' 0 4 = 0xF)) ∧
      (k % 3 = 1 → b = 0x0F) ∧
      (k % 3 = 2 → b.extractLsb' 0 4 = 0x0 ∧ (b.extractLsb' 4 4 = 0x0 ∨ b.extractLsb' 4 4 = 0xF))

/-- R150: the round trips, injectivity, and the encoding of the black frame; and what R149 accepts is an encoding. -/
def Obligations.EncoderRoundTrip : Prop :=
  (∀ c : Byte, decChannel (encChannel c) = some c) ∧
  (∀ a b : Byte, encChannel a = encChannel b → a = b) ∧
  ∀ c : Cfg,
    (∀ ps : List Triple, ps.length = c.n → decFrame c (encFrame c ps) = some ps) ∧
    (∀ (b : List Byte) (ps : List Triple), decFrame c b = some ps → ps.length = c.n ∧ b = encFrame c ps) ∧
    encFrame c (List.replicate c.n ⟨0, 0, 0⟩) =
      (List.replicate (12 * c.n) [(0xF0 : Byte), 0x0F, 0x00]).flatten ++ List.replicate c.resetBytes 0

/-! ### The driver (43_driver) -/

/-- R161: START; a second one changes nothing, and START does not copy BACK. -/
def Obligations.StartBeginsRing : Prop :=
  ∀ s : State, s.fault = none →
    (s.started = false → exec .start s = .next { s with started := true, txIdx := .front0 }) ∧
    (s.started = true → exec .start s = .next s)

/-- R162, R163, R164: SET: a wrong count faults before anything else; a started ring with a back buffer that is not Free
makes the host wait; a read that has no step leaves it stuck (assumption 6); otherwise SET completes with the N pixels at
FRAME_ADDR. -/
def Obligations.SetOutcome : Prop :=
  ∀ s : State, s.fault = none →
    (s.frameCount.toNat ≠ s.cfg.n → exec .set s = .next { s with fault := some .countMismatch }) ∧
    (s.frameCount.toNat = s.cfg.n →
      (s.started = true ∧ s.backState ≠ .free → exec .set s = .next { s with hostNow := some ⟨.write, 0, 4, 0xA⟩ }) ∧
      (s.started = false ∨ s.backState = .free →
        (memOK s.cfg s.frameAddr.toNat (3 * s.cfg.n) = false ∨ 2 ^ 32 < s.frameAddr.toNat + 3 * s.cfg.n →
          exec .set s = .next { s with hostNow := some ⟨.write, 0, 4, 0xA⟩ }) ∧
        (memOK s.cfg s.frameAddr.toNat (3 * s.cfg.n) = true → s.frameAddr.toNat + 3 * s.cfg.n ≤ 2 ^ 32 →
          ∃ ps : List Triple, ps.length = s.cfg.n ∧
            (∀ p, p < s.cfg.n → ps[p]? = some ⟨readByte s.mem (s.frameAddr.toNat + 3 * p),
              readByte s.mem (s.frameAddr.toNat + 3 * p + 1), readByte s.mem (s.frameAddr.toNat + 3 * p + 2)⟩) ∧
            exec .set s = .next { s with
              bufBack := encFrame s.cfg ps, backId := s.backId + 1, setCount := s.setCount + 1,
              backState := .readyToCopy })))

/-- R165: before START SET never waits for the back buffer: with a right count and a readable array it completes in
whatever state the back buffer is; and in no state that a run reaches is the back buffer Copying before START. -/
def Obligations.SetBeforeStartCompletes : Prop :=
  (∀ s : State, s.fault = none → s.started = false → s.frameCount.toNat = s.cfg.n →
    memReadable s.cfg s.frameAddr.toNat (3 * s.cfg.n) = true →
    ∃ t, exec .set s = .next t ∧ t.backState = .readyToCopy ∧ t.backId = s.backId + 1 ∧ t.setCount = s.setCount + 1 ∧
      EncodesFrame s.cfg t.bufBack) ∧
  ∀ s : State, Reachable s → s.started = false → s.backState = .free ∨ s.backState = .readyToCopy

/-- R164: only the copy-complete handler lifts the hold of a SET: a step after which SET no longer waits for the back
buffer is CTRL's, with a copy-complete event pending and the back buffer Copying. -/
def Obligations.OnlyCopyCompleteLiftsHold : Prop :=
  ∀ s t : State, step s = .next t → s.started = true → s.backState ≠ .free → t.backState = .free ∨ t.started = false →
    nextTurn s = .ctrl ∧ s.fault = none ∧ s.cpcPending = true ∧ s.backState = .copying

/-- R97, R164, R173, R226: a held SET completes (the host waits in it as assumption 6 says): with the copy-complete event
pending, a CTRL step and then a HOST step complete it; and from every state with the invariant, in every run that does not
fault and is weakly fair for TXDMA, CPYDMA and CTRL, which is the fairness of R226, the hold ends. That the SET then
completes needs fairness for HOST too, which R226 does not list: it is a premise of that clause (assumptions 16, 18). -/
def Obligations.HeldSetCompletes : Prop :=
  (∀ (s : State) (ts : List Turn), s.fault = none → s.started = true → s.backState = .copying → s.cpcPending = true →
    s.hostNow = some ⟨.write, 0, 4, 0xA⟩ → s.frameCount.toNat = s.cfg.n →
    memReadable s.cfg s.frameAddr.toNat (3 * s.cfg.n) = true → s.turns = .ctrl :: .host :: ts →
    ∃ t, Sys2Proof.core.run 2 s = .next t ∧ t.hostNow = none ∧ t.turns = ts ∧ t.setCount = s.setCount + 1 ∧
      t.backState = .readyToCopy ∧ t.bufBack = encFrame s.cfg (framePixels s)) ∧
  ∀ (s : State) (sched : Nat → Turn) (r : Nat → State), Inv s → s.started = true → s.backState ≠ .free →
    Continuation s sched r → FaultFree r →
    (∃ k, setHolds (r k) = false) ∧
    (s.hostNow = some ⟨.write, 0, 4, 0xA⟩ → s.frameCount.toNat = s.cfg.n →
      memReadable s.cfg s.frameAddr.toNat (3 * s.cfg.n) = true → WeaklyFair .host (fun u => !setHolds u) sched r →
      ∃ k, (r k).hostNow = none ∧ (r k).setCount = s.setCount + 1 ∧ (r k).bufBack = encFrame s.cfg (framePixels s))

/-- R168, R196: TXDONE: IRQ_OVERRUN first, then COPY_LATE, else the buffer being sent joins the wire history, its event is
pending and the ring moves on; that a turn in which it is not enabled changes nothing is the model's (assumption 3). -/
def Obligations.TxDoneStep : Prop :=
  ∀ (s : State) (ts : List Turn), s.turns = .txdma :: ts →
    (s.started = false ∨ s.fault ≠ none → step s = .next { s with turns := ts }) ∧
    (s.started = true → s.fault = none →
      (s.txcPending ≠ none → step s = .next { s with turns := ts, fault := some .irqOverrun }) ∧
      (s.txcPending = none → s.copy ≠ none → step s = .next { s with turns := ts, fault := some .copyLate }) ∧
      (s.txcPending = none → s.copy = none →
        step s = .next { s with
          turns := ts, wire := s.wire ++ [s.buf (.front s.txIdx)], txcPending := some s.txIdx,
          txIdx := s.txIdx.other }))

/-- R169, R173, R200: CTRL runs the copy-complete handler whenever its event is pending; it releases a Copying back
buffer. With no event, or while faulted, CTRL has no step: its turn changes nothing else (assumption 3). -/
def Obligations.CopyCompleteHandlerStep : Prop :=
  ∀ (s : State) (ts : List Turn), s.turns = .ctrl :: ts →
    (s.fault ≠ none ∨ (s.cpcPending = false ∧ s.txcPending = none) → step s = .next { s with turns := ts }) ∧
    (s.fault = none → s.cpcPending = true →
      (s.backState = .copying → step s = .next { s with turns := ts, cpcPending := false, backState := .free }) ∧
      (s.backState ≠ .copying → step s = .next { s with turns := ts, cpcPending := false }))

/-- R170: the transmit-complete handler for FRONT i, in its three branches (and COPY_LATE where a copy would start while one
is in flight). -/
def Obligations.TransmitCompleteHandlerStep : Prop :=
  ∀ (s : State) (ts : List Turn) (i : Front), s.turns = .ctrl :: ts → s.fault = none → s.cpcPending = false →
    s.txcPending = some i →
    (s.backState = .readyToCopy →
      (s.copy ≠ none → step s = .next { s with turns := ts, fault := some .copyLate }) ∧
      (s.copy = none → step s = .next { s with
        turns := ts, txcPending := none, copy := some ⟨.back, i⟩, backState := .copying,
        frontId0 := if i = .front0 then s.backId else s.frontId0,
        frontId1 := if i = .front1 then s.backId else s.frontId1, flipCount := s.flipCount + 1 })) ∧
    (s.backState ≠ .readyToCopy → s.frontId0 ≠ s.frontId1 →
      (s.copy ≠ none → step s = .next { s with turns := ts, fault := some .copyLate }) ∧
      (s.copy = none → step s = .next { s with
        turns := ts, txcPending := none, copy := some ⟨.front i.other, i⟩,
        frontId0 := if i = .front0 then s.frontId1 else s.frontId0,
        frontId1 := if i = .front1 then s.frontId0 else s.frontId1, flipCount := s.flipCount + 1 })) ∧
    (s.backState ≠ .readyToCopy → s.frontId0 = s.frontId1 →
      step s = .next { s with turns := ts, txcPending := none, flipCount := s.flipCount + 1 })

/-- R172: COPYDONE copies all of the source into the target and raises the copy-complete event; a turn in which
it is not enabled changes nothing (assumption 3). -/
def Obligations.CopyDoneStep : Prop :=
  ∀ (s : State) (ts : List Turn), s.turns = .cpydma :: ts →
    (s.copy = none ∨ s.fault ≠ none → step s = .next { s with turns := ts }) ∧
    (∀ src dst, s.copy = some ⟨src, dst⟩ → s.fault = none →
      step s = .next { s with
        turns := ts, copy := none, cpcPending := true,
        bufFront0 := if dst = .front0 then s.buf src else s.bufFront0,
        bufFront1 := if dst = .front1 then s.buf src else s.bufFront1 })

/-- R178: where TXDONE or COPYDONE is enabled and DMA may fail, the platform may take DMAERR instead, which latches
DMA_ERROR; elsewhere it has no step, and its turn changes nothing (assumption 3). -/
def Obligations.DmaErrorStep : Prop :=
  ∀ (s : State) (ts : List Turn), s.turns = .dmaerr :: ts →
    (s.cfg.dmaMayFail = true → s.fault = none → s.started = true ∨ s.copy ≠ none →
      step s = .next { s with turns := ts, fault := some .dmaError }) ∧
    (s.cfg.dmaMayFail = false ∨ s.fault ≠ none ∨ (s.started = false ∧ s.copy = none) →
      step s = .next { s with turns := ts })

/-! ### Frames -/

/-- R30, R53, R61, R90, R107, R161, R162: what no instruction changes, and what each kind of instruction leaves unchanged,
when it answers a next state. No instruction stores to system memory. -/
def Obligations.InstructionFrame : Prop :=
  ∀ (i : Instr) (s t : State), exec i s = .next t →
    SameEngines s t ∧ SameSurroundings s t ∧ SameMemory s t ∧
    (isCommand i = true → SameOperands s t ∧ t.readData = s.readData) ∧
    (isColour i = true → SameDriver s t) ∧
    (isCommand i = true → i ≠ .blend → i ≠ .set → (∀ w, i ≠ .illegal w) → t.fault = s.fault) ∧
    ((∃ w, i = .illegal w) → SameDriver s t ∧ t.result = s.result) ∧
    (i = .start → SameBack s t ∧ t.result = s.result ∧ t.fault = s.fault) ∧
    (i = .set → SameRing s t ∧ t.result = s.result) ∧
    (∀ off, i = .rd off → SameDriver s t ∧ SameOperands s t ∧ t.result = s.result ∧ t.fault = s.fault) ∧
    (∀ off d, i = .wr off d → off ≠ 0 →
      SameDriver s t ∧ t.result = s.result ∧ t.fault = s.fault ∧ t.readData = s.readData ∧
      (off ≠ 0x08 → t.opa = s.opa) ∧ (off ≠ 0x0C → t.opb = s.opb) ∧ (off ≠ 0x10 → t.factor = s.factor) ∧
      (off ≠ 0x14 → t.elapsed = s.elapsed) ∧ (off ≠ 0x18 → t.total = s.total) ∧
      (off ≠ 0x20 → t.frameAddr = s.frameAddr) ∧ (off ≠ 0x24 → t.frameCount = s.frameCount))

/-! ### Invariants of every step, and of every state that a run reaches -/

/-- Every step keeps the invariant. -/
def Obligations.EveryStepKeepsInv : Prop :=
  ∀ s t : State, Inv s → step s = .next t → Inv t

/-- R33, R35, R48, R166: set count and back id move only in the step in which HOST completes a SET, which adds 1 modulo 2^32
to both and sets ReadyToCopy; `setCount = backId` in every state reached from reset. -/
def Obligations.SetCountEqualsBackId : Prop :=
  (∀ s t : State, step s = .next t → t.setCount ≠ s.setCount ∨ t.backId ≠ s.backId →
    nextTurn s = .host ∧ (∃ a, hostAccess s = some a ∧ decodeAccess a = .ok .set) ∧ s.fault = none ∧ t.hostNow = none ∧
      t.setCount = s.setCount + 1 ∧ t.backId = s.backId + 1 ∧ t.backState = .readyToCopy) ∧
  ∀ s : State, Reachable s → s.setCount = s.backId

/-- R174: at most one copy is in flight. -/
def Obligations.OneCopyInFlight : Prop :=
  ∀ s : State, Reachable s → s.fault = none →
    (∀ k, s.copy = some k → k.dst = s.txIdx.other ∧ s.cpcPending = false) ∧
    (s.cpcPending = false → s.txcPending ≠ none → s.copy = none)

/-- R40, R41, R146, R172, R176: no step tears or mixes: whatever holds of all buffers and wire entries before a step, and of
the encoding of the frame that a SET completing in it reads, holds of all of them after it (take for it "is the encoding of
black or of a frame that was set": a buffer of half one frame and half another is neither). And in every state that a run
reaches, every buffer and every wire entry is a well-formed encoding of N pixels, L bytes long. -/
def Obligations.NoBufferIsTorn : Prop :=
  (∀ (whole : List Byte → Prop) (s t : State), step s = .next t →
    (∀ b : Buf, whole (s.buf b)) → (∀ x ∈ s.wire, whole x) →
    (t.setCount ≠ s.setCount → whole (encFrame s.cfg (framePixels s))) →
    (∀ b : Buf, whole (t.buf b)) ∧ ∀ x ∈ t.wire, whole x) ∧
  ∀ s : State, Reachable s →
    (∀ b : Buf, EncodesFrame s.cfg (s.buf b) ∧ (s.buf b).length = s.cfg.frameLen) ∧
    ∀ b ∈ s.wire, EncodesFrame s.cfg b ∧ b.length = s.cfg.frameLen

/-- R171: when the transmit-complete handler for FRONT i is about to copy between the front buffers, the other one, FRONT
n, carries the newest id that SET gave, and the copy that it starts is FRONT n to FRONT i. -/
def Obligations.FresherFrontIsTheOther : Prop :=
  ∀ (s t : State) (i : Front), Inv s → s.fault = none → s.cpcPending = false → s.txcPending = some i →
    s.backState ≠ .readyToCopy → s.frontId0 ≠ s.frontId1 → nextTurn s = .ctrl → step s = .next t →
    s.frontId i.other = s.backId ∧ t.copy = some ⟨.front i.other, i⟩ ∧ t.frontId i = s.backId

/-- R175: the front buffer being sent is not written: no step after START changes the buffer that was being sent before
it, and the entry that TXDONE appends is that buffer. -/
def Obligations.FrontStableWhileSent : Prop :=
  ∀ s t : State, Inv s → s.started = true → step s = .next t →
    t.buf (.front s.txIdx) = s.buf (.front s.txIdx) ∧
    (t.txIdx ≠ s.txIdx → t.wire = s.wire ++ [s.buf (.front s.txIdx)])

/-- R38, R160: the only transitions of the back-buffer state, and who takes them. -/
def Obligations.BackStateTransitions : Prop :=
  ∀ s t : State, Inv s → step s = .next t →
    t.backState = s.backState ∨
    (s.backState = .free ∧ t.backState = .readyToCopy ∧ nextTurn s = .host ∧ t.setCount = s.setCount + 1) ∨
    (s.backState = .readyToCopy ∧ t.backState = .copying ∧ nextTurn s = .ctrl ∧ s.txcPending ≠ none) ∨
    (s.backState = .copying ∧ t.backState = .free ∧ nextTurn s = .ctrl ∧ s.cpcPending = true)

/-- R46, R53, R181: BACK is written only by HOST, and only while the application owns it or before START; a front buffer is
written only by COPYDONE, which copies its source into it. -/
def Obligations.OnlyOwnersWriteBuffers : Prop :=
  ∀ s t : State, step s = .next t →
    (t.bufBack ≠ s.bufBack →
      nextTurn s = .host ∧ s.fault = none ∧ (owner s .back = .application ∨ s.started = false)) ∧
    ∀ i, t.buf (.front i) ≠ s.buf (.front i) →
      nextTurn s = .cpydma ∧ owner s (.front i) = .dmaCopy ∧
      ∃ k, s.copy = some k ∧ k.dst = i ∧ t.buf (.front i) = s.buf k.src

/-- R33 to R36, R48: the counters and ids are single-writer: set count and back id change only in a step of HOST, by one
each; flip count and front ids only in the transmit-complete handler of CTRL. -/
def Obligations.CountersAreSingleWriter : Prop :=
  ∀ s t : State, step s = .next t →
    (t.setCount = s.setCount ∧ t.backId = s.backId ∨
      nextTurn s = .host ∧ t.setCount = s.setCount + 1 ∧ t.backId = s.backId + 1) ∧
    (t.flipCount = s.flipCount ∧ t.frontId0 = s.frontId0 ∧ t.frontId1 = s.frontId1 ∨
      nextTurn s = .ctrl ∧ s.cpcPending = false ∧ s.txcPending ≠ none ∧ t.flipCount = s.flipCount + 1)

/-- R41, R147, R167, R193: the wire history only grows, by one entry, in a step of TXDMA of a block that is started and not
faulted, which also moves the ring on; the bits that the line carried meanwhile, byte by byte with bit 7 first, follow those
before them with no gap. -/
def Obligations.OnlyTxDoneExtendsWire : Prop :=
  ∀ s t : State, step s = .next t →
    t.wire = s.wire ∨
    nextTurn s = .txdma ∧ s.started = true ∧ s.fault = none ∧ t.txIdx = s.txIdx.other ∧
      t.wire = s.wire ++ [s.buf (.front s.txIdx)] ∧
      (∀ k, lineBit s k = (serialise (s.buf (.front s.txIdx)))[k]?) ∧
      lineHistory t = lineHistory s ++ serialise (s.buf (.front s.txIdx))

/-- R7, R52: no step changes the configuration, and system memory changes only when the host itself stores to it, in the one
byte stored to. -/
def Obligations.OnlyHostStoresWriteMemory : Prop :=
  ∀ s t : State, Memory.wf s.mem = true → step s = .next t →
    t.cfg = s.cfg ∧
    (SameMemory s t ∨
      ∃ addr v rest, nextTurn s = .host ∧ s.hostNow = none ∧ s.hostProg = .store addr v :: rest ∧
        ∀ a, readByte t.mem a = if a = addr.toNat then v else readByte s.mem a)

/-- R107 (section 2): the colour operands and RESULT flow nowhere else: two states that differ only in OPA, OPB, FACTOR,
RESULT and the word last read step to states that differ only there. -/
def Obligations.ColourDataStaysInColour : Prop :=
  ∀ (s t : State) (a b r : Packed) (f : Byte) (d : Word), step s = .next t →
    ∃ a' b' r' f' d',
      step { s with opa := a, opb := b, result := r, factor := f, readData := d } =
        .next { t with opa := a', opb := b', result := r', factor := f', readData := d' }

/-- R176, R226: the frame in BACK reaches the wire. On one schedule, once the transmit-complete handler starts to copy it,
it is on the wire at the second TXDONE, whole and after the buffer that was being sent; and from every state with the
invariant in which BACK is ready after START, every weakly fair run that does not fault appends it to the wire (runs,
their fairness and the finite host program: assumptions 16, 18). -/
def Obligations.SetFrameReachesWire : Prop :=
  (∀ (s : State) (i : Front) (ts : List Turn), Inv s → s.fault = none → s.backState = .readyToCopy →
    s.txcPending = some i → s.cpcPending = false →
    s.turns = [.ctrl, .cpydma, .ctrl, .txdma, .ctrl, .cpydma, .txdma] ++ ts →
    ∃ t, Sys2Proof.core.run 7 s = .next t ∧ t.fault = none ∧ t.turns = ts ∧
      t.wire = s.wire ++ [s.buf (.front i.other), s.bufBack]) ∧
  ∀ (s : State) (sched : Nat → Turn) (r : Nat → State), Inv s → s.started = true → s.backState = .readyToCopy →
    Continuation s sched r → FaultFree r → ∃ k, s.bufBack ∈ (r k).wire.drop s.wire.length
end

