-- ==== Sys2Proof/Laws/Config.lean ====
section
/-! SUPPORT. What a well-formed configuration is (00_scope R9), as a proposition. -/

namespace Sys2Proof

theorem wf_iff (c : Cfg) : c.wf = true ↔ 1 ≤ c.n ∧ 1 ≤ c.resetBytes ∧ c.gapBytes < c.resetBytes := by
  simp [Cfg.wf, and_assoc]

/-- The platform that `State.reset` starts has a well-formed configuration, whatever its open constants are. -/
theorem platform_wf : Config.platform.wf = true := by
  rw [wf_iff]
  simp only [Config.platform]
  omega

end Sys2Proof
end

