-- ==== Sys2Proof/Laws/Decode.lean ====
section
/-! SUPPORT. The small lemmas of the encoding (30_encoding): fields as numbers, and the decoder on a written-out tuple. -/

namespace Sys2Proof

/-- Alignment as a number (R58). -/
theorem alignedOff_iff (off : BitVec 12) : alignedOff off = true ↔ off.toNat % 4 = 0 := by
  simp only [alignedOff, beq_iff_eq]
  constructor
  · intro h; simpa using congrArg BitVec.toNat h
  · intro h; apply BitVec.eq_of_toNat_eq; simpa using h

/-- OP as a number (R72). -/
theorem opField_toNat (w : Word) : (opField w).toNat = w.toNat % 16 := by simp [opField]

/-- MBZ as a number (R72). -/
theorem mbzField_eq_zero_iff (w : Word) : mbzField w = 0 ↔ w.toNat / 16 = 0 := by
  have hl := w.isLt
  constructor
  · intro h
    have := congrArg BitVec.toNat h
    simp [mbzField, Nat.shiftRight_eq_div_pow] at this
    omega
  · intro h
    apply BitVec.eq_of_toNat_eq
    simp [mbzField, Nat.shiftRight_eq_div_pow]
    omega

/-- The illegal command words as numbers (R75). -/
theorem illegalWord_iff (w : Word) :
    illegalWord w = true ↔ w.toNat / 16 ≠ 0 ∨ w.toNat % 16 = 0 ∨ 0xB ≤ w.toNat % 16 := by
  have h0 : opField w = 0 ↔ w.toNat % 16 = 0 := by
    rw [← opField_toNat]
    exact ⟨fun h => by simp [h], fun h => BitVec.eq_of_toNat_eq (by simpa using h)⟩
  simp only [illegalWord, Bool.or_eq_true, bne_iff_ne, ne_eq, beq_iff_eq, decide_eq_true_eq, mbzField_eq_zero_iff,
    BitVec.le_def, opField_toNat, or_assoc, h0]
  rfl

/-- The command decoder on the whole word: "a decoder matches the whole word" (R73). -/
theorem decodeCommand_eq (w : Word) : decodeCommand w =
    match w.toNat with
    | 1 => .rgb2hsv | 2 => .hsv2rgb | 3 => .powc | 4 => .logc | 5 => .toi | 6 => .fromi | 7 => .blend
    | 8 => .chbright | 9 => .start | 10 => .set | _ => .illegal w := by
  unfold decodeCommand
  by_cases h : w.toNat / 16 = 0
  · rw [if_pos ((mbzField_eq_zero_iff w).mpr h)]
    have h16 : w.toNat < 16 := by omega
    unfold commandOf
    rw [opField_toNat, Nat.mod_eq_of_lt h16]
    generalize hk : w.toNat = k at *
    interval_cases k <;> rfl
  · rw [if_neg (fun h' => h ((mbzField_eq_zero_iff w).mp h'))]
    split <;> first | rfl | omega

/-- The decoder on a written-out tuple (R71). -/
theorem decodeAccess_mk (dir : Dir) (off : Word) (size : Nat) (data : Word) :
    decodeAccess ⟨dir, off, size, data⟩ =
      if 0xFFF#32 < off then .error .outsideBlock
      else if size ≠ 4 then .error .badSize
      else if alignedOff (off.setWidth 12) = false then .error .misaligned
      else match dir with
        | .write => if off = 0 then .ok (decodeCommand data) else .ok (.wr (off.setWidth 12) data)
        | .read => .ok (.rd (off.setWidth 12)) := rfl

/-- BASE is 4 KiB-aligned, so the block does not wrap around the address space (R62). -/
theorem base_aligned (c : Cfg) : c.base.toNat % 4096 = 0 ∧ c.base.toNat + 4096 ≤ 2 ^ 32 := by
  have hb : c.base.toNat = c.basePage.toNat * 4096 := by
    unfold Cfg.base
    rw [BitVec.toNat_append, BitVec.toNat_zero, Nat.or_zero, Nat.shiftLeft_eq]
  have hp := c.basePage.isLt
  omega

/-- The offset of an address (R71). -/
theorem toNat_sub_base (c : Cfg) (addr : Word) :
    (addr - c.base).toNat = if c.base.toNat ≤ addr.toNat then addr.toNat - c.base.toNat
      else 2 ^ 32 - (c.base.toNat - addr.toNat) := by
  have ha := addr.isLt
  have hb := base_aligned c
  rw [BitVec.toNat_sub]
  split <;> omega

end Sys2Proof

namespace Sys2Proof.Machine

/-- `accessAt` and `accessAddr` are inverse (R51, R71). -/
@[simp] theorem accessAddr_accessAt (c : Cfg) (dir : Dir) (addr : Word) (size : Nat) (data : Word) :
    accessAddr c (accessAt c dir addr size data) = addr := by
  unfold accessAddr accessAt
  rw [BitVec.add_comm, BitVec.sub_add_cancel]

end Sys2Proof.Machine
end

