-- ==== Sys2Proof/Laws/Encoder.lean ====
section
/-! SUPPORT. The small lemmas of the encoder (42_encoder) and of the pixel array: lengths. -/

namespace Sys2Proof.Machine

@[simp] theorem encChannel_length (c : Byte) : (encChannel c).length = 12 := rfl

@[simp] theorem encPixel_length (p : Triple) : (encPixel p).length = 36 := rfl

@[simp] theorem flatMap_encPixel_length (ps : List Triple) : (ps.flatMap encPixel).length = 36 * ps.length := by
  induction ps with
  | nil => rfl
  | cons p ps ih => simp only [List.flatMap_cons, List.length_append, encPixel_length, ih, List.length_cons]; omega

/-- The length of an encoded frame (R8). -/
@[simp] theorem encFrame_length (c : Cfg) (ps : List Triple) :
    (encFrame c ps).length = 36 * ps.length + c.resetBytes := by
  simp only [encFrame, List.length_append, flatMap_encPixel_length, List.length_replicate]

theorem pixelsOf_length (b : List Byte) (n : Nat) (h : b.length = 3 * n) : (pixelsOf b).length = n := by
  induction n generalizing b with
  | zero => cases b with
    | nil => rfl
    | cons x xs => simp at h
  | succ n ih =>
    match b, h with
    | r :: g :: bl :: rest, h => simp [pixelsOf, ih rest (by simp at h; omega)]

end Sys2Proof.Machine
end

