-- ==== Sys2Proof/Laws/Memory.lean ====
section
/-! SUPPORT. The laws of system memory (20_memory R52): reading after writing, and the canonical form. -/

namespace Sys2Proof.Machine

/-- An address below the least listed one is unlisted. -/
theorem readByte_of_lt (m : Memory) (lo a : Nat) (h : Memory.wfFrom lo m = true) (ha : a < lo) :
    readByte m a = unlistedByte := by
  induction m generalizing lo with
  | nil => rfl
  | cons kv rest ih =>
    obtain ⟨k, v⟩ := kv
    simp only [Memory.wfFrom, Bool.and_eq_true, decide_eq_true_eq] at h
    have hk : a ≠ k := by omega
    simp only [readByte, hk, if_false]
    exact ih (k + 1) h.2 (by omega)

/-- A canonical memory whose entries rise from `hi` is canonical from any lower bound. -/
theorem wfFrom_mono (m : Memory) (lo hi : Nat) (h : Memory.wfFrom hi m = true) (hle : lo ≤ hi) :
    Memory.wfFrom lo m = true := by
  cases m with
  | nil => rfl
  | cons kv rest =>
    obtain ⟨k, v⟩ := kv
    simp only [Memory.wfFrom, Bool.and_eq_true, decide_eq_true_eq] at h ⊢
    exact ⟨⟨⟨by omega, h.1.1.2⟩, h.1.2⟩, h.2⟩

theorem wfFrom_consCell (m : Memory) (lo a : Nat) (v : Byte) (hlo : lo ≤ a) (ha : a < 2 ^ 32)
    (h : Memory.wfFrom (a + 1) m = true) : Memory.wfFrom lo (consCell a v m) = true := by
  unfold consCell
  split
  · exact wfFrom_mono m lo (a + 1) h (by omega)
  · rename_i hv
    simp only [Memory.wfFrom, Bool.and_eq_true, decide_eq_true_eq, bne_iff_ne]
    exact ⟨⟨⟨hlo, ha⟩, hv⟩, h⟩

theorem writeByte_wfFrom (m : Memory) (lo a : Nat) (v : Byte) (hlo : lo ≤ a) (ha : a < 2 ^ 32)
    (h : Memory.wfFrom lo m = true) : Memory.wfFrom lo (writeByte m a v) = true := by
  induction m generalizing lo with
  | nil => exact wfFrom_consCell [] lo a v hlo ha rfl
  | cons kv rest ih =>
    obtain ⟨k, w⟩ := kv
    simp only [Memory.wfFrom, Bool.and_eq_true, decide_eq_true_eq, bne_iff_ne] at h
    unfold writeByte
    split
    · refine wfFrom_consCell _ lo a v hlo ha ?_
      simp only [Memory.wfFrom, Bool.and_eq_true, decide_eq_true_eq, bne_iff_ne]
      exact ⟨⟨⟨by omega, h.1.1.2⟩, h.1.2⟩, h.2⟩
    · split
      · rename_i hk
        subst hk
        exact wfFrom_consCell rest lo a v hlo ha h.2
      · simp only [Memory.wfFrom, Bool.and_eq_true, decide_eq_true_eq, bne_iff_ne]
        exact ⟨⟨⟨h.1.1.1, h.1.1.2⟩, h.1.2⟩, ih (k + 1) (by omega) h.2⟩

/-- Every write keeps the canonical form; `writeByte` is the only operation that writes memory. -/
theorem writeByte_wf (m : Memory) (a : Nat) (v : Byte) (ha : a < 2 ^ 32) (h : Memory.wf m = true) :
    Memory.wf (writeByte m a v) = true :=
  writeByte_wfFrom m 0 a v (Nat.zero_le a) ha h

theorem readByte_writeByte_from (m : Memory) (lo a b : Nat) (v : Byte) (h : Memory.wfFrom lo m = true) :
    readByte (writeByte m a v) b = if b = a then v else readByte m b := by
  induction m generalizing lo with
  | nil =>
    unfold writeByte consCell
    split <;> by_cases hb : b = a <;> simp_all [readByte]
  | cons kv rest ih =>
    obtain ⟨k, w⟩ := kv
    have hr : Memory.wfFrom (k + 1) rest = true := by
      simp only [Memory.wfFrom, Bool.and_eq_true] at h
      exact h.2
    have low : ∀ x, x ≤ k → readByte rest x = unlistedByte := fun x hx =>
      readByte_of_lt rest (k + 1) x hr (by omega)
    unfold writeByte
    split
    · rename_i hlt
      unfold consCell
      by_cases hb : b = a
      · subst hb
        have hk : b ≠ k := by omega
        split <;> simp_all [readByte, low b (by omega)]
      · split <;> simp [readByte, hb]
    · split
      · rename_i hk
        subst hk
        unfold consCell
        by_cases hb : b = a
        · subst hb
          split <;> simp_all [readByte, low b (Nat.le_refl b)]
        · split <;> simp [readByte, hb]
      · rename_i hk
        simp only [readByte, ih (k + 1) hr]
        by_cases hb : b = k
        · have : b ≠ a := by omega
          simp [hb, Ne.symm hk]
        · simp [hb]

/-- A read after a write gives the byte written at that address and the old byte everywhere else. -/
theorem readByte_writeByte (m : Memory) (a b : Nat) (v : Byte) (h : Memory.wf m = true) :
    readByte (writeByte m a v) b = if b = a then v else readByte m b :=
  readByte_writeByte_from m 0 a b v h

@[simp] theorem memRead_length (m : Memory) (a n : Nat) : (memRead m a n).length = n := by
  induction n generalizing a with
  | zero => rfl
  | succ n ih => simp [memRead, ih]

/-- Byte `j` of a read is the byte at `a + j` (R52). -/
theorem memRead_getElem? (m : Memory) (a n j : Nat) (h : j < n) : (memRead m a n)[j]? = some (readByte m (a + j)) := by
  induction n generalizing a j with
  | zero => omega
  | succ n ih =>
    cases j with
    | zero => simp [memRead]
    | succ j => simp [memRead, ih (a + 1) j (by omega), Nat.add_assoc, Nat.add_comm 1 j]

end Sys2Proof.Machine
end

