-- ==== Sys2Proof/Laws/State.lean ====
section
/-! SUPPORT. The small lemmas of State: one per field and named update, so that no proof unfolds a record update. -/

namespace Sys2Proof.Machine

/-! ### `withResult`: writes RESULT only (R30) -/

@[simp] theorem withResult_cfg (s : State) (v : Packed) : (s.withResult v).cfg = s.cfg := rfl
@[simp] theorem withResult_opa (s : State) (v : Packed) : (s.withResult v).opa = s.opa := rfl
@[simp] theorem withResult_opb (s : State) (v : Packed) : (s.withResult v).opb = s.opb := rfl
@[simp] theorem withResult_factor (s : State) (v : Packed) : (s.withResult v).factor = s.factor := rfl
@[simp] theorem withResult_elapsed (s : State) (v : Packed) : (s.withResult v).elapsed = s.elapsed := rfl
@[simp] theorem withResult_total (s : State) (v : Packed) : (s.withResult v).total = s.total := rfl
@[simp] theorem withResult_result (s : State) (v : Packed) : (s.withResult v).result = v := rfl
@[simp] theorem withResult_frameAddr (s : State) (v : Packed) : (s.withResult v).frameAddr = s.frameAddr := rfl
@[simp] theorem withResult_frameCount (s : State) (v : Packed) : (s.withResult v).frameCount = s.frameCount := rfl
@[simp] theorem withResult_backState (s : State) (v : Packed) : (s.withResult v).backState = s.backState := rfl
@[simp] theorem withResult_started (s : State) (v : Packed) : (s.withResult v).started = s.started := rfl
@[simp] theorem withResult_backId (s : State) (v : Packed) : (s.withResult v).backId = s.backId := rfl
@[simp] theorem withResult_frontId0 (s : State) (v : Packed) : (s.withResult v).frontId0 = s.frontId0 := rfl
@[simp] theorem withResult_frontId1 (s : State) (v : Packed) : (s.withResult v).frontId1 = s.frontId1 := rfl
@[simp] theorem withResult_setCount (s : State) (v : Packed) : (s.withResult v).setCount = s.setCount := rfl
@[simp] theorem withResult_flipCount (s : State) (v : Packed) : (s.withResult v).flipCount = s.flipCount := rfl
@[simp] theorem withResult_bufBack (s : State) (v : Packed) : (s.withResult v).bufBack = s.bufBack := rfl
@[simp] theorem withResult_bufFront0 (s : State) (v : Packed) : (s.withResult v).bufFront0 = s.bufFront0 := rfl
@[simp] theorem withResult_bufFront1 (s : State) (v : Packed) : (s.withResult v).bufFront1 = s.bufFront1 := rfl
@[simp] theorem withResult_wire (s : State) (v : Packed) : (s.withResult v).wire = s.wire := rfl
@[simp] theorem withResult_txIdx (s : State) (v : Packed) : (s.withResult v).txIdx = s.txIdx := rfl
@[simp] theorem withResult_txcPending (s : State) (v : Packed) : (s.withResult v).txcPending = s.txcPending := rfl
@[simp] theorem withResult_cpcPending (s : State) (v : Packed) : (s.withResult v).cpcPending = s.cpcPending := rfl
@[simp] theorem withResult_copy (s : State) (v : Packed) : (s.withResult v).copy = s.copy := rfl
@[simp] theorem withResult_fault (s : State) (v : Packed) : (s.withResult v).fault = s.fault := rfl
@[simp] theorem withResult_mem (s : State) (v : Packed) : (s.withResult v).mem = s.mem := rfl
@[simp] theorem withResult_hostNow (s : State) (v : Packed) : (s.withResult v).hostNow = s.hostNow := rfl
@[simp] theorem withResult_hostProg (s : State) (v : Packed) : (s.withResult v).hostProg = s.hostProg := rfl
@[simp] theorem withResult_readData (s : State) (v : Packed) : (s.withResult v).readData = s.readData := rfl
@[simp] theorem withResult_turns (s : State) (v : Packed) : (s.withResult v).turns = s.turns := rfl
@[simp] theorem withResult_draws (s : State) (v : Packed) : (s.withResult v).draws = s.draws := rfl

/-! ### `hostWaits`: writes `hostNow` only -/

@[simp] theorem hostWaits_cfg (a : Access) (s : State) : (hostWaits a s).cfg = s.cfg := rfl
@[simp] theorem hostWaits_opa (a : Access) (s : State) : (hostWaits a s).opa = s.opa := rfl
@[simp] theorem hostWaits_opb (a : Access) (s : State) : (hostWaits a s).opb = s.opb := rfl
@[simp] theorem hostWaits_factor (a : Access) (s : State) : (hostWaits a s).factor = s.factor := rfl
@[simp] theorem hostWaits_elapsed (a : Access) (s : State) : (hostWaits a s).elapsed = s.elapsed := rfl
@[simp] theorem hostWaits_total (a : Access) (s : State) : (hostWaits a s).total = s.total := rfl
@[simp] theorem hostWaits_result (a : Access) (s : State) : (hostWaits a s).result = s.result := rfl
@[simp] theorem hostWaits_frameAddr (a : Access) (s : State) : (hostWaits a s).frameAddr = s.frameAddr := rfl
@[simp] theorem hostWaits_frameCount (a : Access) (s : State) : (hostWaits a s).frameCount = s.frameCount := rfl
@[simp] theorem hostWaits_backState (a : Access) (s : State) : (hostWaits a s).backState = s.backState := rfl
@[simp] theorem hostWaits_started (a : Access) (s : State) : (hostWaits a s).started = s.started := rfl
@[simp] theorem hostWaits_backId (a : Access) (s : State) : (hostWaits a s).backId = s.backId := rfl
@[simp] theorem hostWaits_frontId0 (a : Access) (s : State) : (hostWaits a s).frontId0 = s.frontId0 := rfl
@[simp] theorem hostWaits_frontId1 (a : Access) (s : State) : (hostWaits a s).frontId1 = s.frontId1 := rfl
@[simp] theorem hostWaits_setCount (a : Access) (s : State) : (hostWaits a s).setCount = s.setCount := rfl
@[simp] theorem hostWaits_flipCount (a : Access) (s : State) : (hostWaits a s).flipCount = s.flipCount := rfl
@[simp] theorem hostWaits_bufBack (a : Access) (s : State) : (hostWaits a s).bufBack = s.bufBack := rfl
@[simp] theorem hostWaits_bufFront0 (a : Access) (s : State) : (hostWaits a s).bufFront0 = s.bufFront0 := rfl
@[simp] theorem hostWaits_bufFront1 (a : Access) (s : State) : (hostWaits a s).bufFront1 = s.bufFront1 := rfl
@[simp] theorem hostWaits_wire (a : Access) (s : State) : (hostWaits a s).wire = s.wire := rfl
@[simp] theorem hostWaits_txIdx (a : Access) (s : State) : (hostWaits a s).txIdx = s.txIdx := rfl
@[simp] theorem hostWaits_txcPending (a : Access) (s : State) : (hostWaits a s).txcPending = s.txcPending := rfl
@[simp] theorem hostWaits_cpcPending (a : Access) (s : State) : (hostWaits a s).cpcPending = s.cpcPending := rfl
@[simp] theorem hostWaits_copy (a : Access) (s : State) : (hostWaits a s).copy = s.copy := rfl
@[simp] theorem hostWaits_fault (a : Access) (s : State) : (hostWaits a s).fault = s.fault := rfl
@[simp] theorem hostWaits_mem (a : Access) (s : State) : (hostWaits a s).mem = s.mem := rfl
@[simp] theorem hostWaits_hostNow (a : Access) (s : State) : (hostWaits a s).hostNow = some a := rfl
@[simp] theorem hostWaits_hostProg (a : Access) (s : State) : (hostWaits a s).hostProg = s.hostProg := rfl
@[simp] theorem hostWaits_readData (a : Access) (s : State) : (hostWaits a s).readData = s.readData := rfl
@[simp] theorem hostWaits_turns (a : Access) (s : State) : (hostWaits a s).turns = s.turns := rfl
@[simp] theorem hostWaits_draws (a : Access) (s : State) : (hostWaits a s).draws = s.draws := rfl

/-! ### `raise`: writes `fault` only (R192) -/

@[simp] theorem raise_cfg (c : Cause) (s : State) : (raise c s).cfg = s.cfg := by unfold raise; split <;> rfl
@[simp] theorem raise_opa (c : Cause) (s : State) : (raise c s).opa = s.opa := by unfold raise; split <;> rfl
@[simp] theorem raise_opb (c : Cause) (s : State) : (raise c s).opb = s.opb := by unfold raise; split <;> rfl
@[simp] theorem raise_factor (c : Cause) (s : State) : (raise c s).factor = s.factor := by unfold raise; split <;> rfl
@[simp] theorem raise_elapsed (c : Cause) (s : State) : (raise c s).elapsed = s.elapsed := by unfold raise; split <;> rfl
@[simp] theorem raise_total (c : Cause) (s : State) : (raise c s).total = s.total := by unfold raise; split <;> rfl
@[simp] theorem raise_result (c : Cause) (s : State) : (raise c s).result = s.result := by unfold raise; split <;> rfl
@[simp] theorem raise_frameAddr (c : Cause) (s : State) : (raise c s).frameAddr = s.frameAddr := by unfold raise; split <;> rfl
@[simp] theorem raise_frameCount (c : Cause) (s : State) : (raise c s).frameCount = s.frameCount := by unfold raise; split <;> rfl
@[simp] theorem raise_backState (c : Cause) (s : State) : (raise c s).backState = s.backState := by unfold raise; split <;> rfl
@[simp] theorem raise_started (c : Cause) (s : State) : (raise c s).started = s.started := by unfold raise; split <;> rfl
@[simp] theorem raise_backId (c : Cause) (s : State) : (raise c s).backId = s.backId := by unfold raise; split <;> rfl
@[simp] theorem raise_frontId0 (c : Cause) (s : State) : (raise c s).frontId0 = s.frontId0 := by unfold raise; split <;> rfl
@[simp] theorem raise_frontId1 (c : Cause) (s : State) : (raise c s).frontId1 = s.frontId1 := by unfold raise; split <;> rfl
@[simp] theorem raise_setCount (c : Cause) (s : State) : (raise c s).setCount = s.setCount := by unfold raise; split <;> rfl
@[simp] theorem raise_flipCount (c : Cause) (s : State) : (raise c s).flipCount = s.flipCount := by unfold raise; split <;> rfl
@[simp] theorem raise_bufBack (c : Cause) (s : State) : (raise c s).bufBack = s.bufBack := by unfold raise; split <;> rfl
@[simp] theorem raise_bufFront0 (c : Cause) (s : State) : (raise c s).bufFront0 = s.bufFront0 := by unfold raise; split <;> rfl
@[simp] theorem raise_bufFront1 (c : Cause) (s : State) : (raise c s).bufFront1 = s.bufFront1 := by unfold raise; split <;> rfl
@[simp] theorem raise_wire (c : Cause) (s : State) : (raise c s).wire = s.wire := by unfold raise; split <;> rfl
@[simp] theorem raise_txIdx (c : Cause) (s : State) : (raise c s).txIdx = s.txIdx := by unfold raise; split <;> rfl
@[simp] theorem raise_txcPending (c : Cause) (s : State) : (raise c s).txcPending = s.txcPending := by unfold raise; split <;> rfl
@[simp] theorem raise_cpcPending (c : Cause) (s : State) : (raise c s).cpcPending = s.cpcPending := by unfold raise; split <;> rfl
@[simp] theorem raise_copy (c : Cause) (s : State) : (raise c s).copy = s.copy := by unfold raise; split <;> rfl
@[simp] theorem raise_mem (c : Cause) (s : State) : (raise c s).mem = s.mem := by unfold raise; split <;> rfl
@[simp] theorem raise_hostNow (c : Cause) (s : State) : (raise c s).hostNow = s.hostNow := by unfold raise; split <;> rfl
@[simp] theorem raise_hostProg (c : Cause) (s : State) : (raise c s).hostProg = s.hostProg := by unfold raise; split <;> rfl
@[simp] theorem raise_readData (c : Cause) (s : State) : (raise c s).readData = s.readData := by unfold raise; split <;> rfl
@[simp] theorem raise_turns (c : Cause) (s : State) : (raise c s).turns = s.turns := by unfold raise; split <;> rfl
@[simp] theorem raise_draws (c : Cause) (s : State) : (raise c s).draws = s.draws := by unfold raise; split <;> rfl

/-! ### `setBuf`: writes one buffer only -/

@[simp] theorem setBuf_cfg (s : State) (b : Buf) (v : List Byte) : (s.setBuf b v).cfg = s.cfg := by unfold State.setBuf; split <;> rfl
@[simp] theorem setBuf_opa (s : State) (b : Buf) (v : List Byte) : (s.setBuf b v).opa = s.opa := by unfold State.setBuf; split <;> rfl
@[simp] theorem setBuf_opb (s : State) (b : Buf) (v : List Byte) : (s.setBuf b v).opb = s.opb := by unfold State.setBuf; split <;> rfl
@[simp] theorem setBuf_factor (s : State) (b : Buf) (v : List Byte) : (s.setBuf b v).factor = s.factor := by unfold State.setBuf; split <;> rfl
@[simp] theorem setBuf_elapsed (s : State) (b : Buf) (v : List Byte) : (s.setBuf b v).elapsed = s.elapsed := by unfold State.setBuf; split <;> rfl
@[simp] theorem setBuf_total (s : State) (b : Buf) (v : List Byte) : (s.setBuf b v).total = s.total := by unfold State.setBuf; split <;> rfl
@[simp] theorem setBuf_result (s : State) (b : Buf) (v : List Byte) : (s.setBuf b v).result = s.result := by unfold State.setBuf; split <;> rfl
@[simp] theorem setBuf_frameAddr (s : State) (b : Buf) (v : List Byte) : (s.setBuf b v).frameAddr = s.frameAddr := by unfold State.setBuf; split <;> rfl
@[simp] theorem setBuf_frameCount (s : State) (b : Buf) (v : List Byte) : (s.setBuf b v).frameCount = s.frameCount := by unfold State.setBuf; split <;> rfl
@[simp] theorem setBuf_backState (s : State) (b : Buf) (v : List Byte) : (s.setBuf b v).backState = s.backState := by unfold State.setBuf; split <;> rfl
@[simp] theorem setBuf_started (s : State) (b : Buf) (v : List Byte) : (s.setBuf b v).started = s.started := by unfold State.setBuf; split <;> rfl
@[simp] theorem setBuf_backId (s : State) (b : Buf) (v : List Byte) : (s.setBuf b v).backId = s.backId := by unfold State.setBuf; split <;> rfl
@[simp] theorem setBuf_frontId0 (s : State) (b : Buf) (v : List Byte) : (s.setBuf b v).frontId0 = s.frontId0 := by unfold State.setBuf; split <;> rfl
@[simp] theorem setBuf_frontId1 (s : State) (b : Buf) (v : List Byte) : (s.setBuf b v).frontId1 = s.frontId1 := by unfold State.setBuf; split <;> rfl
@[simp] theorem setBuf_setCount (s : State) (b : Buf) (v : List Byte) : (s.setBuf b v).setCount = s.setCount := by unfold State.setBuf; split <;> rfl
@[simp] theorem setBuf_flipCount (s : State) (b : Buf) (v : List Byte) : (s.setBuf b v).flipCount = s.flipCount := by unfold State.setBuf; split <;> rfl
@[simp] theorem setBuf_wire (s : State) (b : Buf) (v : List Byte) : (s.setBuf b v).wire = s.wire := by unfold State.setBuf; split <;> rfl
@[simp] theorem setBuf_txIdx (s : State) (b : Buf) (v : List Byte) : (s.setBuf b v).txIdx = s.txIdx := by unfold State.setBuf; split <;> rfl
@[simp] theorem setBuf_txcPending (s : State) (b : Buf) (v : List Byte) : (s.setBuf b v).txcPending = s.txcPending := by unfold State.setBuf; split <;> rfl
@[simp] theorem setBuf_cpcPending (s : State) (b : Buf) (v : List Byte) : (s.setBuf b v).cpcPending = s.cpcPending := by unfold State.setBuf; split <;> rfl
@[simp] theorem setBuf_copy (s : State) (b : Buf) (v : List Byte) : (s.setBuf b v).copy = s.copy := by unfold State.setBuf; split <;> rfl
@[simp] theorem setBuf_fault (s : State) (b : Buf) (v : List Byte) : (s.setBuf b v).fault = s.fault := by unfold State.setBuf; split <;> rfl
@[simp] theorem setBuf_mem (s : State) (b : Buf) (v : List Byte) : (s.setBuf b v).mem = s.mem := by unfold State.setBuf; split <;> rfl
@[simp] theorem setBuf_hostNow (s : State) (b : Buf) (v : List Byte) : (s.setBuf b v).hostNow = s.hostNow := by unfold State.setBuf; split <;> rfl
@[simp] theorem setBuf_hostProg (s : State) (b : Buf) (v : List Byte) : (s.setBuf b v).hostProg = s.hostProg := by unfold State.setBuf; split <;> rfl
@[simp] theorem setBuf_readData (s : State) (b : Buf) (v : List Byte) : (s.setBuf b v).readData = s.readData := by unfold State.setBuf; split <;> rfl
@[simp] theorem setBuf_turns (s : State) (b : Buf) (v : List Byte) : (s.setBuf b v).turns = s.turns := by unfold State.setBuf; split <;> rfl
@[simp] theorem setBuf_draws (s : State) (b : Buf) (v : List Byte) : (s.setBuf b v).draws = s.draws := by unfold State.setBuf; split <;> rfl

/-! ### `setFrontId`: writes one front id only -/

@[simp] theorem setFrontId_cfg (s : State) (i : Front) (v : Word) : (s.setFrontId i v).cfg = s.cfg := by cases i <;> rfl
@[simp] theorem setFrontId_opa (s : State) (i : Front) (v : Word) : (s.setFrontId i v).opa = s.opa := by cases i <;> rfl
@[simp] theorem setFrontId_opb (s : State) (i : Front) (v : Word) : (s.setFrontId i v).opb = s.opb := by cases i <;> rfl
@[simp] theorem setFrontId_factor (s : State) (i : Front) (v : Word) : (s.setFrontId i v).factor = s.factor := by cases i <;> rfl
@[simp] theorem setFrontId_elapsed (s : State) (i : Front) (v : Word) : (s.setFrontId i v).elapsed = s.elapsed := by cases i <;> rfl
@[simp] theorem setFrontId_total (s : State) (i : Front) (v : Word) : (s.setFrontId i v).total = s.total := by cases i <;> rfl
@[simp] theorem setFrontId_result (s : State) (i : Front) (v : Word) : (s.setFrontId i v).result = s.result := by cases i <;> rfl
@[simp] theorem setFrontId_frameAddr (s : State) (i : Front) (v : Word) : (s.setFrontId i v).frameAddr = s.frameAddr := by cases i <;> rfl
@[simp] theorem setFrontId_frameCount (s : State) (i : Front) (v : Word) : (s.setFrontId i v).frameCount = s.frameCount := by cases i <;> rfl
@[simp] theorem setFrontId_backState (s : State) (i : Front) (v : Word) : (s.setFrontId i v).backState = s.backState := by cases i <;> rfl
@[simp] theorem setFrontId_started (s : State) (i : Front) (v : Word) : (s.setFrontId i v).started = s.started := by cases i <;> rfl
@[simp] theorem setFrontId_backId (s : State) (i : Front) (v : Word) : (s.setFrontId i v).backId = s.backId := by cases i <;> rfl
@[simp] theorem setFrontId_setCount (s : State) (i : Front) (v : Word) : (s.setFrontId i v).setCount = s.setCount := by cases i <;> rfl
@[simp] theorem setFrontId_flipCount (s : State) (i : Front) (v : Word) : (s.setFrontId i v).flipCount = s.flipCount := by cases i <;> rfl
@[simp] theorem setFrontId_bufBack (s : State) (i : Front) (v : Word) : (s.setFrontId i v).bufBack = s.bufBack := by cases i <;> rfl
@[simp] theorem setFrontId_bufFront0 (s : State) (i : Front) (v : Word) : (s.setFrontId i v).bufFront0 = s.bufFront0 := by cases i <;> rfl
@[simp] theorem setFrontId_bufFront1 (s : State) (i : Front) (v : Word) : (s.setFrontId i v).bufFront1 = s.bufFront1 := by cases i <;> rfl
@[simp] theorem setFrontId_wire (s : State) (i : Front) (v : Word) : (s.setFrontId i v).wire = s.wire := by cases i <;> rfl
@[simp] theorem setFrontId_txIdx (s : State) (i : Front) (v : Word) : (s.setFrontId i v).txIdx = s.txIdx := by cases i <;> rfl
@[simp] theorem setFrontId_txcPending (s : State) (i : Front) (v : Word) : (s.setFrontId i v).txcPending = s.txcPending := by cases i <;> rfl
@[simp] theorem setFrontId_cpcPending (s : State) (i : Front) (v : Word) : (s.setFrontId i v).cpcPending = s.cpcPending := by cases i <;> rfl
@[simp] theorem setFrontId_copy (s : State) (i : Front) (v : Word) : (s.setFrontId i v).copy = s.copy := by cases i <;> rfl
@[simp] theorem setFrontId_fault (s : State) (i : Front) (v : Word) : (s.setFrontId i v).fault = s.fault := by cases i <;> rfl
@[simp] theorem setFrontId_mem (s : State) (i : Front) (v : Word) : (s.setFrontId i v).mem = s.mem := by cases i <;> rfl
@[simp] theorem setFrontId_hostNow (s : State) (i : Front) (v : Word) : (s.setFrontId i v).hostNow = s.hostNow := by cases i <;> rfl
@[simp] theorem setFrontId_hostProg (s : State) (i : Front) (v : Word) : (s.setFrontId i v).hostProg = s.hostProg := by cases i <;> rfl
@[simp] theorem setFrontId_readData (s : State) (i : Front) (v : Word) : (s.setFrontId i v).readData = s.readData := by cases i <;> rfl
@[simp] theorem setFrontId_turns (s : State) (i : Front) (v : Word) : (s.setFrontId i v).turns = s.turns := by cases i <;> rfl
@[simp] theorem setFrontId_draws (s : State) (i : Front) (v : Word) : (s.setFrontId i v).draws = s.draws := by cases i <;> rfl

/-! ### `setFrame`: writes BACK, its id and state, and the set count (R162) -/

@[simp] theorem setFrame_cfg (ps : List Triple) (s : State) : (setFrame ps s).cfg = s.cfg := rfl
@[simp] theorem setFrame_opa (ps : List Triple) (s : State) : (setFrame ps s).opa = s.opa := rfl
@[simp] theorem setFrame_opb (ps : List Triple) (s : State) : (setFrame ps s).opb = s.opb := rfl
@[simp] theorem setFrame_factor (ps : List Triple) (s : State) : (setFrame ps s).factor = s.factor := rfl
@[simp] theorem setFrame_elapsed (ps : List Triple) (s : State) : (setFrame ps s).elapsed = s.elapsed := rfl
@[simp] theorem setFrame_total (ps : List Triple) (s : State) : (setFrame ps s).total = s.total := rfl
@[simp] theorem setFrame_result (ps : List Triple) (s : State) : (setFrame ps s).result = s.result := rfl
@[simp] theorem setFrame_frameAddr (ps : List Triple) (s : State) : (setFrame ps s).frameAddr = s.frameAddr := rfl
@[simp] theorem setFrame_frameCount (ps : List Triple) (s : State) : (setFrame ps s).frameCount = s.frameCount := rfl
@[simp] theorem setFrame_backState (ps : List Triple) (s : State) : (setFrame ps s).backState = .readyToCopy := rfl
@[simp] theorem setFrame_started (ps : List Triple) (s : State) : (setFrame ps s).started = s.started := rfl
@[simp] theorem setFrame_backId (ps : List Triple) (s : State) : (setFrame ps s).backId = s.backId + 1 := rfl
@[simp] theorem setFrame_frontId0 (ps : List Triple) (s : State) : (setFrame ps s).frontId0 = s.frontId0 := rfl
@[simp] theorem setFrame_frontId1 (ps : List Triple) (s : State) : (setFrame ps s).frontId1 = s.frontId1 := rfl
@[simp] theorem setFrame_setCount (ps : List Triple) (s : State) : (setFrame ps s).setCount = s.setCount + 1 := rfl
@[simp] theorem setFrame_flipCount (ps : List Triple) (s : State) : (setFrame ps s).flipCount = s.flipCount := rfl
@[simp] theorem setFrame_bufBack (ps : List Triple) (s : State) : (setFrame ps s).bufBack = encFrame s.cfg ps := rfl
@[simp] theorem setFrame_bufFront0 (ps : List Triple) (s : State) : (setFrame ps s).bufFront0 = s.bufFront0 := rfl
@[simp] theorem setFrame_bufFront1 (ps : List Triple) (s : State) : (setFrame ps s).bufFront1 = s.bufFront1 := rfl
@[simp] theorem setFrame_wire (ps : List Triple) (s : State) : (setFrame ps s).wire = s.wire := rfl
@[simp] theorem setFrame_txIdx (ps : List Triple) (s : State) : (setFrame ps s).txIdx = s.txIdx := rfl
@[simp] theorem setFrame_txcPending (ps : List Triple) (s : State) : (setFrame ps s).txcPending = s.txcPending := rfl
@[simp] theorem setFrame_cpcPending (ps : List Triple) (s : State) : (setFrame ps s).cpcPending = s.cpcPending := rfl
@[simp] theorem setFrame_copy (ps : List Triple) (s : State) : (setFrame ps s).copy = s.copy := rfl
@[simp] theorem setFrame_fault (ps : List Triple) (s : State) : (setFrame ps s).fault = s.fault := rfl
@[simp] theorem setFrame_mem (ps : List Triple) (s : State) : (setFrame ps s).mem = s.mem := rfl
@[simp] theorem setFrame_hostNow (ps : List Triple) (s : State) : (setFrame ps s).hostNow = s.hostNow := rfl
@[simp] theorem setFrame_hostProg (ps : List Triple) (s : State) : (setFrame ps s).hostProg = s.hostProg := rfl
@[simp] theorem setFrame_readData (ps : List Triple) (s : State) : (setFrame ps s).readData = s.readData := rfl
@[simp] theorem setFrame_turns (ps : List Triple) (s : State) : (setFrame ps s).turns = s.turns := rfl
@[simp] theorem setFrame_draws (ps : List Triple) (s : State) : (setFrame ps s).draws = s.draws := rfl

/-! ### `txcEnd`: clears the event and counts the flip (R170) -/

@[simp] theorem txcEnd_cfg (s : State) : (txcEnd s).cfg = s.cfg := rfl
@[simp] theorem txcEnd_opa (s : State) : (txcEnd s).opa = s.opa := rfl
@[simp] theorem txcEnd_opb (s : State) : (txcEnd s).opb = s.opb := rfl
@[simp] theorem txcEnd_factor (s : State) : (txcEnd s).factor = s.factor := rfl
@[simp] theorem txcEnd_elapsed (s : State) : (txcEnd s).elapsed = s.elapsed := rfl
@[simp] theorem txcEnd_total (s : State) : (txcEnd s).total = s.total := rfl
@[simp] theorem txcEnd_result (s : State) : (txcEnd s).result = s.result := rfl
@[simp] theorem txcEnd_frameAddr (s : State) : (txcEnd s).frameAddr = s.frameAddr := rfl
@[simp] theorem txcEnd_frameCount (s : State) : (txcEnd s).frameCount = s.frameCount := rfl
@[simp] theorem txcEnd_backState (s : State) : (txcEnd s).backState = s.backState := rfl
@[simp] theorem txcEnd_started (s : State) : (txcEnd s).started = s.started := rfl
@[simp] theorem txcEnd_backId (s : State) : (txcEnd s).backId = s.backId := rfl
@[simp] theorem txcEnd_frontId0 (s : State) : (txcEnd s).frontId0 = s.frontId0 := rfl
@[simp] theorem txcEnd_frontId1 (s : State) : (txcEnd s).frontId1 = s.frontId1 := rfl
@[simp] theorem txcEnd_setCount (s : State) : (txcEnd s).setCount = s.setCount := rfl
@[simp] theorem txcEnd_flipCount (s : State) : (txcEnd s).flipCount = s.flipCount + 1 := rfl
@[simp] theorem txcEnd_bufBack (s : State) : (txcEnd s).bufBack = s.bufBack := rfl
@[simp] theorem txcEnd_bufFront0 (s : State) : (txcEnd s).bufFront0 = s.bufFront0 := rfl
@[simp] theorem txcEnd_bufFront1 (s : State) : (txcEnd s).bufFront1 = s.bufFront1 := rfl
@[simp] theorem txcEnd_wire (s : State) : (txcEnd s).wire = s.wire := rfl
@[simp] theorem txcEnd_txIdx (s : State) : (txcEnd s).txIdx = s.txIdx := rfl
@[simp] theorem txcEnd_txcPending (s : State) : (txcEnd s).txcPending = none := rfl
@[simp] theorem txcEnd_cpcPending (s : State) : (txcEnd s).cpcPending = s.cpcPending := rfl
@[simp] theorem txcEnd_copy (s : State) : (txcEnd s).copy = s.copy := rfl
@[simp] theorem txcEnd_fault (s : State) : (txcEnd s).fault = s.fault := rfl
@[simp] theorem txcEnd_mem (s : State) : (txcEnd s).mem = s.mem := rfl
@[simp] theorem txcEnd_hostNow (s : State) : (txcEnd s).hostNow = s.hostNow := rfl
@[simp] theorem txcEnd_hostProg (s : State) : (txcEnd s).hostProg = s.hostProg := rfl
@[simp] theorem txcEnd_readData (s : State) : (txcEnd s).readData = s.readData := rfl
@[simp] theorem txcEnd_turns (s : State) : (txcEnd s).turns = s.turns := rfl
@[simp] theorem txcEnd_draws (s : State) : (txcEnd s).draws = s.draws := rfl

/-! ### `copyEnd`: the copy is over, its event is pending (R172) -/

@[simp] theorem copyEnd_cfg (s : State) : (copyEnd s).cfg = s.cfg := rfl
@[simp] theorem copyEnd_opa (s : State) : (copyEnd s).opa = s.opa := rfl
@[simp] theorem copyEnd_opb (s : State) : (copyEnd s).opb = s.opb := rfl
@[simp] theorem copyEnd_factor (s : State) : (copyEnd s).factor = s.factor := rfl
@[simp] theorem copyEnd_elapsed (s : State) : (copyEnd s).elapsed = s.elapsed := rfl
@[simp] theorem copyEnd_total (s : State) : (copyEnd s).total = s.total := rfl
@[simp] theorem copyEnd_result (s : State) : (copyEnd s).result = s.result := rfl
@[simp] theorem copyEnd_frameAddr (s : State) : (copyEnd s).frameAddr = s.frameAddr := rfl
@[simp] theorem copyEnd_frameCount (s : State) : (copyEnd s).frameCount = s.frameCount := rfl
@[simp] theorem copyEnd_backState (s : State) : (copyEnd s).backState = s.backState := rfl
@[simp] theorem copyEnd_started (s : State) : (copyEnd s).started = s.started := rfl
@[simp] theorem copyEnd_backId (s : State) : (copyEnd s).backId = s.backId := rfl
@[simp] theorem copyEnd_frontId0 (s : State) : (copyEnd s).frontId0 = s.frontId0 := rfl
@[simp] theorem copyEnd_frontId1 (s : State) : (copyEnd s).frontId1 = s.frontId1 := rfl
@[simp] theorem copyEnd_setCount (s : State) : (copyEnd s).setCount = s.setCount := rfl
@[simp] theorem copyEnd_flipCount (s : State) : (copyEnd s).flipCount = s.flipCount := rfl
@[simp] theorem copyEnd_bufBack (s : State) : (copyEnd s).bufBack = s.bufBack := rfl
@[simp] theorem copyEnd_bufFront0 (s : State) : (copyEnd s).bufFront0 = s.bufFront0 := rfl
@[simp] theorem copyEnd_bufFront1 (s : State) : (copyEnd s).bufFront1 = s.bufFront1 := rfl
@[simp] theorem copyEnd_wire (s : State) : (copyEnd s).wire = s.wire := rfl
@[simp] theorem copyEnd_txIdx (s : State) : (copyEnd s).txIdx = s.txIdx := rfl
@[simp] theorem copyEnd_txcPending (s : State) : (copyEnd s).txcPending = s.txcPending := rfl
@[simp] theorem copyEnd_cpcPending (s : State) : (copyEnd s).cpcPending = true := rfl
@[simp] theorem copyEnd_copy (s : State) : (copyEnd s).copy = none := rfl
@[simp] theorem copyEnd_fault (s : State) : (copyEnd s).fault = s.fault := rfl
@[simp] theorem copyEnd_mem (s : State) : (copyEnd s).mem = s.mem := rfl
@[simp] theorem copyEnd_hostNow (s : State) : (copyEnd s).hostNow = s.hostNow := rfl
@[simp] theorem copyEnd_hostProg (s : State) : (copyEnd s).hostProg = s.hostProg := rfl
@[simp] theorem copyEnd_readData (s : State) : (copyEnd s).readData = s.readData := rfl
@[simp] theorem copyEnd_turns (s : State) : (copyEnd s).turns = s.turns := rfl
@[simp] theorem copyEnd_draws (s : State) : (copyEnd s).draws = s.draws := rfl

/-! ### `afterTurn`: writes the schedule only -/

@[simp] theorem afterTurn_cfg (s : State) : (afterTurn s).cfg = s.cfg := by unfold afterTurn; split <;> rfl
@[simp] theorem afterTurn_opa (s : State) : (afterTurn s).opa = s.opa := by unfold afterTurn; split <;> rfl
@[simp] theorem afterTurn_opb (s : State) : (afterTurn s).opb = s.opb := by unfold afterTurn; split <;> rfl
@[simp] theorem afterTurn_factor (s : State) : (afterTurn s).factor = s.factor := by unfold afterTurn; split <;> rfl
@[simp] theorem afterTurn_elapsed (s : State) : (afterTurn s).elapsed = s.elapsed := by unfold afterTurn; split <;> rfl
@[simp] theorem afterTurn_total (s : State) : (afterTurn s).total = s.total := by unfold afterTurn; split <;> rfl
@[simp] theorem afterTurn_result (s : State) : (afterTurn s).result = s.result := by unfold afterTurn; split <;> rfl
@[simp] theorem afterTurn_frameAddr (s : State) : (afterTurn s).frameAddr = s.frameAddr := by unfold afterTurn; split <;> rfl
@[simp] theorem afterTurn_frameCount (s : State) : (afterTurn s).frameCount = s.frameCount := by unfold afterTurn; split <;> rfl
@[simp] theorem afterTurn_backState (s : State) : (afterTurn s).backState = s.backState := by unfold afterTurn; split <;> rfl
@[simp] theorem afterTurn_started (s : State) : (afterTurn s).started = s.started := by unfold afterTurn; split <;> rfl
@[simp] theorem afterTurn_backId (s : State) : (afterTurn s).backId = s.backId := by unfold afterTurn; split <;> rfl
@[simp] theorem afterTurn_frontId0 (s : State) : (afterTurn s).frontId0 = s.frontId0 := by unfold afterTurn; split <;> rfl
@[simp] theorem afterTurn_frontId1 (s : State) : (afterTurn s).frontId1 = s.frontId1 := by unfold afterTurn; split <;> rfl
@[simp] theorem afterTurn_setCount (s : State) : (afterTurn s).setCount = s.setCount := by unfold afterTurn; split <;> rfl
@[simp] theorem afterTurn_flipCount (s : State) : (afterTurn s).flipCount = s.flipCount := by unfold afterTurn; split <;> rfl
@[simp] theorem afterTurn_bufBack (s : State) : (afterTurn s).bufBack = s.bufBack := by unfold afterTurn; split <;> rfl
@[simp] theorem afterTurn_bufFront0 (s : State) : (afterTurn s).bufFront0 = s.bufFront0 := by unfold afterTurn; split <;> rfl
@[simp] theorem afterTurn_bufFront1 (s : State) : (afterTurn s).bufFront1 = s.bufFront1 := by unfold afterTurn; split <;> rfl
@[simp] theorem afterTurn_wire (s : State) : (afterTurn s).wire = s.wire := by unfold afterTurn; split <;> rfl
@[simp] theorem afterTurn_txIdx (s : State) : (afterTurn s).txIdx = s.txIdx := by unfold afterTurn; split <;> rfl
@[simp] theorem afterTurn_txcPending (s : State) : (afterTurn s).txcPending = s.txcPending := by unfold afterTurn; split <;> rfl
@[simp] theorem afterTurn_cpcPending (s : State) : (afterTurn s).cpcPending = s.cpcPending := by unfold afterTurn; split <;> rfl
@[simp] theorem afterTurn_copy (s : State) : (afterTurn s).copy = s.copy := by unfold afterTurn; split <;> rfl
@[simp] theorem afterTurn_fault (s : State) : (afterTurn s).fault = s.fault := by unfold afterTurn; split <;> rfl
@[simp] theorem afterTurn_mem (s : State) : (afterTurn s).mem = s.mem := by unfold afterTurn; split <;> rfl
@[simp] theorem afterTurn_hostNow (s : State) : (afterTurn s).hostNow = s.hostNow := by unfold afterTurn; split <;> rfl
@[simp] theorem afterTurn_hostProg (s : State) : (afterTurn s).hostProg = s.hostProg := by unfold afterTurn; split <;> rfl
@[simp] theorem afterTurn_readData (s : State) : (afterTurn s).readData = s.readData := by unfold afterTurn; split <;> rfl

/-! ### Reading back what an update wrote -/

@[simp] theorem raise_fault_none (c : Cause) (s : State) (h : s.fault = none) : (raise c s).fault = some c := by
  simp [raise, h]

@[simp] theorem raise_of_fault (c d : Cause) (s : State) (h : s.fault = some d) : raise c s = s := by
  simp [raise, h]

@[simp] theorem buf_setBuf_self (s : State) (b : Buf) (v : List Byte) : (s.setBuf b v).buf b = v := by
  rcases b with _ | (_ | _) <;> rfl

theorem buf_setBuf_ne (s : State) (b b' : Buf) (v : List Byte) (h : b' ≠ b) : (s.setBuf b v).buf b' = s.buf b' := by
  rcases b with _ | (_ | _) <;> rcases b' with _ | (_ | _) <;> first | rfl | exact absurd rfl h

@[simp] theorem frontId_setFrontId_self (s : State) (i : Front) (v : Word) : (s.setFrontId i v).frontId i = v := by
  cases i <;> rfl

@[simp] theorem frontId_setFrontId_other (s : State) (i : Front) (v : Word) :
    (s.setFrontId i v).frontId i.other = s.frontId i.other := by
  cases i <;> rfl

/-- The buffers, read through `buf`, are the same when the three fields are. -/
theorem buf_congr (s t : State) (hb : t.bufBack = s.bufBack) (h0 : t.bufFront0 = s.bufFront0)
    (h1 : t.bufFront1 = s.bufFront1) (b : Buf) : t.buf b = s.buf b := by
  rcases b with _ | (_ | _)
  · exact hb
  · exact h0
  · exact h1

@[simp] theorem buf_copyEnd (s : State) (b : Buf) : (copyEnd s).buf b = s.buf b := buf_congr s _ rfl rfl rfl b

@[simp] theorem frontId_copyEnd (s : State) (i : Front) : (copyEnd s).frontId i = s.frontId i := by cases i <;> rfl

@[simp] theorem frontId_setBuf (s : State) (b : Buf) (v : List Byte) (i : Front) :
    (s.setBuf b v).frontId i = s.frontId i := by
  cases i <;> simp [State.frontId]

@[simp] theorem frontId_txcEnd (s : State) (i : Front) : (txcEnd s).frontId i = s.frontId i := by cases i <;> rfl

/-- `raise` as an update of one field (R192). -/
theorem raise_eq (c : Cause) (s : State) : raise c s = { s with fault := some (s.fault.getD c) } := by
  unfold raise
  split
  · simp [*]
  · cases s; simp_all

/-- `afterTurn` as an update of the schedule. -/
theorem afterTurn_eq (s : State) : ∃ ts k, afterTurn s = { s with turns := ts, draws := k } := by
  unfold afterTurn
  split
  · exact ⟨_, s.draws, rfl⟩
  · exact ⟨s.turns, _, rfl⟩

@[simp] theorem other_other (i : Front) : i.other.other = i := by cases i <;> rfl

@[simp] theorem other_ne (i : Front) : i.other ≠ i := by cases i <;> decide

end Sys2Proof.Machine
end

