-- ==== Sys2Proof/Laws/Ops.lean ====
section
/-! SUPPORT. One lemma for each shared operation that says everything it can do; proofs cite these and do not unfold. -/

namespace Sys2Proof.Machine

/-- A command that runs (R94). -/
theorem command_run (w : Word) (body : State → State) (s : State) (h : s.fault = none) :
    command w body s = .next (body s) := by
  simp [command, h]

/-- A command while faulted (R94, R95): the host waits, nothing else changes. -/
theorem command_faulted (w : Word) (body : State → State) (s : State) (c : Cause) (h : s.fault = some c) :
    command w body s = .next (hostWaits (cmdAccess w) s) := by
  simp [command, h]

/-- Everything a command can do. -/
theorem command_next (w : Word) (body : State → State) (s t : State) (h : command w body s = .next t) :
    (s.fault = none ∧ t = body s) ∨ ((∃ c, s.fault = some c) ∧ t = hostWaits (cmdAccess w) s) := by
  unfold command at h
  split at h
  · rename_i c hc
    exact .inr ⟨⟨c, hc⟩, by cases h; rfl⟩
  · rename_i hc
    exact .inl ⟨hc, by cases h; rfl⟩

/-- Everything BLEND can do while no fault is latched (R113). -/
theorem blendBody_cases (s : State) :
    (s.total = 0 ∧ blendBody s = raise .blendDiv0 s)
      ∨ (s.total ≠ 0 ∧ s.total < s.elapsed ∧ blendBody s = raise .blendRange s)
      ∨ (s.total ≠ 0 ∧ s.elapsed ≤ s.total ∧ ∃ v, blendBody s = s.withResult v) := by
  unfold blendBody
  split
  · exact .inl ⟨‹_›, rfl⟩
  · split
    · exact .inr (.inl ⟨‹_›, ‹_›, rfl⟩)
    · rename_i h
      exact .inr (.inr ⟨‹_›, BitVec.not_lt.mp h, _, rfl⟩)

/-- Everything SET can do while no fault is latched (R162). -/
theorem setBody_cases (s : State) :
    (s.frameCount.toNat ≠ s.cfg.n ∧ setBody s = raise .countMismatch s)
      ∨ (s.frameCount.toNat = s.cfg.n
          ∧ (setHolds s = true ∨ memReadable s.cfg s.frameAddr.toNat (3 * s.cfg.n) = false)
          ∧ setBody s = hostWaits (cmdAccess 0xA) s)
      ∨ (s.frameCount.toNat = s.cfg.n ∧ setHolds s = false
          ∧ memReadable s.cfg s.frameAddr.toNat (3 * s.cfg.n) = true ∧ setBody s = setFrame (framePixels s) s) := by
  by_cases hc : s.frameCount.toNat = s.cfg.n
  · by_cases hh : setHolds s = true
    · exact .inr (.inl ⟨hc, .inl hh, by simp [setBody, hc, hh]⟩)
    · have hh' : setHolds s = false := by simpa using hh
      by_cases hm : memReadable s.cfg s.frameAddr.toNat (3 * s.cfg.n) = true
      · exact .inr (.inr ⟨hc, hh', hm, by simp [setBody, hc, hh', hm]⟩)
      · have hm' : memReadable s.cfg s.frameAddr.toNat (3 * s.cfg.n) = false := by simpa using hm
        exact .inr (.inl ⟨hc, .inr hm', by simp [setBody, hc, hh', hm']⟩)
  · exact .inl ⟨hc, by simp [setBody, hc]⟩

/-- Everything a write to a register other than CMD can do (R90): it stores into one operand register, or nothing. -/
theorem writeReg_cases (off : BitVec 12) (d : Word) (s : State) :
    writeReg off d s = s ∨ writeReg off d s = { s with opa := d.setWidth 24 }
      ∨ writeReg off d s = { s with opb := d.setWidth 24 } ∨ writeReg off d s = { s with factor := d.setWidth 8 }
      ∨ writeReg off d s = { s with elapsed := d } ∨ writeReg off d s = { s with total := d }
      ∨ writeReg off d s = { s with frameAddr := d } ∨ writeReg off d s = { s with frameCount := d } := by
  unfold writeReg
  split <;> simp

/-- Everything TXDONE can do (R168). -/
theorem txDone_cases (s : State) :
    txDone s = s ∨ (∃ c, txDone s = raise c s)
      ∨ (s.started = true ∧ s.fault = none ∧ s.txcPending = none ∧ s.copy = none
          ∧ txDone s = { s with
              wire := s.wire ++ [s.buf (.front s.txIdx)], txcPending := some s.txIdx, txIdx := s.txIdx.other }) := by
  by_cases he : txDoneEnabled s = true
  · cases hp : s.txcPending with
    | some i => exact .inr (.inl ⟨.irqOverrun, by simp [txDone, he, hp]⟩)
    | none =>
      cases hk : s.copy with
      | some k => exact .inr (.inl ⟨.copyLate, by simp [txDone, he, hp, hk]⟩)
      | none =>
        have hf : s.started = true ∧ s.fault = none := by simpa [txDoneEnabled] using he
        exact .inr (.inr ⟨hf.1, hf.2, rfl, rfl, by simp [txDone, he, hp, hk]⟩)
  · exact .inl (by simp [txDone, he])

/-- Everything COPYDONE can do (R172). -/
theorem copyDone_cases (s : State) :
    copyDone s = s
      ∨ ∃ k, s.fault = none ∧ s.copy = some k
          ∧ copyDone s = copyEnd (s.setBuf (.front k.dst) (s.buf k.src)) := by
  cases hf : s.fault with
  | some c => exact .inl (by simp [copyDone, hf])
  | none =>
    cases hk : s.copy with
    | none => exact .inl (by simp [copyDone, hf, hk])
    | some k => exact .inr ⟨k, rfl, rfl, by simp [copyDone, hf, hk]⟩

/-- Everything DMAERR can do (R178). -/
theorem dmaErr_cases (s : State) : dmaErr s = s ∨ (s.cfg.dmaMayFail = true ∧ dmaErr s = raise .dmaError s) := by
  unfold dmaErr
  split
  · rename_i h
    simp only [dmaErrEnabled, Bool.and_eq_true] at h
    exact .inr ⟨h.1, rfl⟩
  · exact .inl rfl

/-- Everything CTRL can do (R169). -/
theorem ctrlStep_cases (s : State) :
    ctrlStep s = s ∨ (s.fault = none ∧ s.cpcPending = true ∧ ctrlStep s = cpcHandler s)
      ∨ ∃ i, s.fault = none ∧ s.cpcPending = false ∧ s.txcPending = some i ∧ ctrlStep s = txcHandler i s := by
  cases hf : s.fault with
  | some c => exact .inl (by simp [ctrlStep, hf])
  | none =>
    cases hc : s.cpcPending with
    | true => exact .inr (.inl ⟨rfl, rfl, by simp [ctrlStep, hf, hc]⟩)
    | false =>
      cases hp : s.txcPending with
      | none => exact .inl (by simp [ctrlStep, hf, hc, hp])
      | some i => exact .inr (.inr ⟨i, rfl, rfl, rfl, by simp [ctrlStep, hf, hc, hp]⟩)

/-- Everything the transmit-complete handler can do (R170). -/
theorem txcHandler_cases (i : Front) (s : State) :
    (∃ k, s.copy = some k ∧ txcHandler i s = raise .copyLate s)
      ∨ (s.backState = .readyToCopy ∧ s.copy = none
          ∧ txcHandler i s = txcEnd ({ s with copy := some ⟨.back, i⟩, backState := .copying }.setFrontId i s.backId))
      ∨ (s.backState ≠ .readyToCopy ∧ s.frontId .front0 ≠ s.frontId .front1 ∧ s.copy = none
          ∧ txcHandler i s = txcEnd ({ s with copy := some ⟨.front i.other, i⟩ }.setFrontId i (s.frontId i.other)))
      ∨ (s.backState ≠ .readyToCopy ∧ s.frontId .front0 = s.frontId .front1 ∧ txcHandler i s = txcEnd s) := by
  by_cases hb : s.backState = .readyToCopy
  · cases hk : s.copy with
    | some k => exact .inl ⟨k, rfl, by simp [txcHandler, hb, hk]⟩
    | none => exact .inr (.inl ⟨hb, rfl, by simp [txcHandler, hb, hk]⟩)
  · by_cases hi : s.frontId .front0 = s.frontId .front1
    · exact .inr (.inr (.inr ⟨hb, hi, by simp [txcHandler, hb, hi]⟩))
    · cases hk : s.copy with
      | some k => exact .inl ⟨k, rfl, by simp [txcHandler, hb, hi, hk]⟩
      | none => exact .inr (.inr (.inl ⟨hb, hi, rfl, by simp [txcHandler, hb, hi, hk]⟩))

end Sys2Proof.Machine
end

