-- ==== Sys2Proof/Laws/Step.lean ====
section
/-! SUPPORT. What an instruction, a host step and a machine step can do, said once: every invariant is derived from these. -/

namespace Sys2Proof.Machine

/-- An aligned write to a register other than CMD (R90). -/
theorem exec_wr_reg (off : BitVec 12) (d : Word) (s : State) (ha : alignedOff off = true) (h0 : off ≠ 0) :
    exec (.wr off d) s = .next (writeReg off d s) := by
  simp only [exec, execWr]
  rw [if_neg (by simp [ha]), if_neg h0]

/-- A write to CMD (R94). -/
theorem exec_wr_cmd (d : Word) (s : State) : exec (.wr 0 d) s = dispatch d s := rfl

/-- An aligned read (R91). -/
theorem exec_rd_aligned (off : BitVec 12) (s : State) (ha : alignedOff off = true) :
    exec (.rd off) s = .next { s with readData := readReg off s } := by
  simp only [exec, execRd]
  rw [if_neg (by simp [ha])]

/-- Every command is `command` of its whole word (R73, R94). -/
theorem exec_isCommand (i : Instr) (s : State) (h : ∀ off d, i ≠ .wr off d) (h' : ∀ off, i ≠ .rd off) :
    ∃ w body, encode i = cmdAccess w ∧ exec i s = command w body s := by
  cases i with
  | wr off d => exact absurd rfl (h off d)
  | rd off => exact absurd rfl (h' off)
  | rgb2hsv => exact ⟨_, rgb2hsvBody, rfl, rfl⟩
  | hsv2rgb => exact ⟨_, hsv2rgbBody, rfl, rfl⟩
  | powc => exact ⟨_, powcBody, rfl, rfl⟩
  | logc => exact ⟨_, logcBody, rfl, rfl⟩
  | toi => exact ⟨_, toiBody, rfl, rfl⟩
  | fromi => exact ⟨_, fromiBody, rfl, rfl⟩
  | blend => exact ⟨_, blendBody, rfl, rfl⟩
  | chbright => exact ⟨_, chbrightBody, rfl, rfl⟩
  | start => exact ⟨_, startBody, rfl, rfl⟩
  | set => exact ⟨_, setBody, rfl, rfl⟩
  | illegal w => exact ⟨w, raise .illegalCmd, rfl, rfl⟩

/-- `dispatch` answers a next state on every word. -/
theorem dispatch_isCommand (d : Word) (s : State) : ∃ w body, dispatch d s = command w body s := by
  unfold dispatch
  split <;> exact ⟨_, _, rfl⟩

/-- What the body of a command can do: a result, a fault, START, a waiting or a completed SET. -/
inductive BodyEffect (s : State) : State → Prop where
  | result (v : Packed) : BodyEffect s (s.withResult v)
  | fault (c : Cause) : BodyEffect s (raise c s)
  | start : BodyEffect s (startBody s)
  | waits (w : Word) : BodyEffect s (hostWaits (cmdAccess w) s)
  | frame : setHolds s = false → s.frameCount.toNat = s.cfg.n →
      memReadable s.cfg s.frameAddr.toNat (3 * s.cfg.n) = true → BodyEffect s (setFrame (framePixels s) s)

/-- Everything an instruction can do when it answers a next state. -/
inductive ExecEffect (s : State) : State → Prop where
  | waits (a : Access) : ExecEffect s (hostWaits a s)
  | body (t : State) : s.fault = none → BodyEffect s t → ExecEffect s t
  | wrote (off : BitVec 12) (d : Word) : ExecEffect s (writeReg off d s)
  | read (off : BitVec 12) : ExecEffect s { s with readData := readReg off s }

theorem blendBody_effect (s : State) : BodyEffect s (blendBody s) := by
  rcases blendBody_cases s with ⟨_, h⟩ | ⟨_, _, h⟩ | ⟨_, _, v, h⟩ <;> rw [h]
  · exact .fault _
  · exact .fault _
  · exact .result v

theorem setBody_effect (s : State) : BodyEffect s (setBody s) := by
  rcases setBody_cases s with ⟨_, h⟩ | ⟨_, _, h⟩ | ⟨hc, hh, hm, h⟩ <;> rw [h]
  · exact .fault _
  · exact .waits _
  · exact .frame hh hc hm

theorem command_effect (w : Word) (body : State → State) (s t : State) (hb : BodyEffect s (body s))
    (h : command w body s = .next t) : ExecEffect s t := by
  rcases command_next w body s t h with ⟨hf, rfl⟩ | ⟨_, rfl⟩
  · exact .body _ hf hb
  · exact .waits _

theorem dispatch_effect (d : Word) (s t : State) (h : dispatch d s = .next t) : ExecEffect s t := by
  unfold dispatch at h
  split at h
  · exact command_effect _ _ s t (.result _) h
  · exact command_effect _ _ s t (.result _) h
  · exact command_effect _ _ s t (.result _) h
  · exact command_effect _ _ s t (.result _) h
  · exact command_effect _ _ s t (.result _) h
  · exact command_effect _ _ s t (.result _) h
  · exact command_effect _ _ s t (blendBody_effect s) h
  · exact command_effect _ _ s t (.result _) h
  · exact command_effect _ _ s t .start h
  · exact command_effect _ _ s t (setBody_effect s) h
  · exact command_effect _ _ s t (.fault _) h

/-- Everything `exec` can do when it answers a next state. -/
theorem exec_effect (i : Instr) (s t : State) (h : exec i s = .next t) : ExecEffect s t := by
  cases i with
  | rgb2hsv => exact dispatch_effect 0x1 s t h
  | hsv2rgb => exact dispatch_effect 0x2 s t h
  | powc => exact dispatch_effect 0x3 s t h
  | logc => exact dispatch_effect 0x4 s t h
  | toi => exact dispatch_effect 0x5 s t h
  | fromi => exact dispatch_effect 0x6 s t h
  | blend => exact dispatch_effect 0x7 s t h
  | chbright => exact dispatch_effect 0x8 s t h
  | start => exact dispatch_effect 0x9 s t h
  | set => exact dispatch_effect 0xA s t h
  | illegal w => exact command_effect _ _ s t (.fault _) h
  | wr off d =>
    simp only [exec, execWr] at h
    split at h
    · cases h; exact .waits _
    · split at h
      · exact dispatch_effect d s t h
      · cases h; exact .wrote off d
  | rd off =>
    simp only [exec, execRd] at h
    split at h
    · cases h; exact .waits _
    · cases h; exact .read off

/-- Everything an issued access can do when it answers a next state. -/
theorem issue_effect (a : Access) (s t : State) (h : issue a s = .next t) :
    (∃ i, decodeAccess a = .ok i ∧ ExecEffect { s with hostNow := none } t) ∨ t = hostWaits a s := by
  unfold issue at h
  split at h
  · rename_i i hi
    exact .inl ⟨i, hi, exec_effect i _ t h⟩
  · cases h
  · cases h; exact .inr rfl
  · cases h; exact .inr rfl

/-- Everything a step of HOST can do when it answers a next state: it only moves in its own program (nothing to do, or
stuck at an access), it stores to system memory, or it runs an instruction. -/
theorem hostStep_effect (s t : State) (h : hostStep s = .next t) :
    (∃ prog now, t = { s with hostProg := prog, hostNow := now })
      ∨ (∃ addr v prog, s.hostNow = none ∧ s.hostProg = .store addr v :: prog ∧ memOK s.cfg addr.toNat 1 = true
          ∧ t = { s with hostProg := prog, mem := writeByte s.mem addr.toNat v })
      ∨ ∃ prog, ExecEffect { s with hostProg := prog, hostNow := none } t := by
  unfold hostStep at h
  split at h
  · rcases issue_effect _ _ t h with ⟨i, _, he⟩ | rfl
    · exact .inr (.inr ⟨s.hostProg, he⟩)
    · exact .inl ⟨s.hostProg, _, rfl⟩
  · cases h; exact .inl ⟨s.hostProg, s.hostNow, rfl⟩
  · rcases issue_effect _ _ t h with ⟨i, _, he⟩ | rfl
    · exact .inr (.inr ⟨_, he⟩)
    · exact .inl ⟨_, _, rfl⟩
  · rename_i hn hp
    unfold hostStore at h
    split at h
    · rename_i hm
      cases h; exact .inr (.inl ⟨_, _, _, hn, hp, hm, rfl⟩)
    · cases h

/-- Everything a step can do when it answers a next state: one step of the agent whose turn it is. -/
theorem step_effect (s t : State) (h : step s = .next t) :
    (nextTurn s = .host ∧ hostStep (afterTurn s) = .next t) ∨ (nextTurn s = .ctrl ∧ t = ctrlStep (afterTurn s))
      ∨ (nextTurn s = .txdma ∧ t = txDone (afterTurn s)) ∨ (nextTurn s = .cpydma ∧ t = copyDone (afterTurn s))
      ∨ (nextTurn s = .dmaerr ∧ t = dmaErr (afterTurn s)) := by
  unfold step at h
  cases hn : nextTurn s <;> simp only [hn, agentStep] at h
  · exact .inl ⟨rfl, h⟩
  · cases h; exact .inr (.inl ⟨rfl, rfl⟩)
  · cases h; exact .inr (.inr (.inl ⟨rfl, rfl⟩))
  · cases h; exact .inr (.inr (.inr (.inl ⟨rfl, rfl⟩)))
  · cases h; exact .inr (.inr (.inr (.inr ⟨rfl, rfl⟩)))

end Sys2Proof.Machine
end

