-- ==== Sys2Proof/Laws/Fair.lean ====
section
/-! SUPPORT. How weak fairness is used (70_reset R226): one lemma that leads from a stable condition to the agent's turn, and one
that says everything a step of a run that does not fault can do. -/

namespace Sys2Proof.Machine

/-- The step of a state whose next turn is `t` is the step of `t` (R13). -/
theorem step_turn (t : Turn) (s : State) : step { s with turns := t :: s.turns } = agentStep t s := rfl

/-- If `P` keeps the agent `t` enabled and only its own step can end `P`, a weakly fair run reaches a turn of `t` at which
`P` still holds. -/
theorem WeaklyFair.reaches {t : Turn} {en : State → Bool} {sched : Nat → Turn} {r : Nat → State}
    (hf : WeaklyFair t en sched r) (P : State → Prop) (k : Nat) (hk : P (r k)) (hen : ∀ s, P s → en s = true)
    (hkeep : ∀ j, P (r j) → sched j ≠ t → P (r (j + 1))) : ∃ j, k ≤ j ∧ sched j = t ∧ P (r j) := by
  by_contra hno
  push Not at hno
  have hall : ∀ j, k ≤ j → P (r j) := by
    intro j hj
    induction j, hj using Nat.le_induction with
    | base => exact hk
    | succ j hj ih => exact hkeep j ih fun h => hno j hj h ih
  obtain ⟨j, hj, ht⟩ := hf k fun j hj => hen _ (hall j hj)
  exact hno j hj ht (hall j hj)

/-- CTRL without an enabled step leaves the block as it is (R169). -/
theorem ctrlStep_not_enabled (s : State) (h : ctrlEnabled s = false) : ctrlStep s = s := by
  cases hf : s.fault <;> cases hc : s.cpcPending <;> cases hp : s.txcPending <;>
    simp_all [ctrlEnabled, ctrlStep]

/-- Everything a HOST step can do to the driver state once the ring is started: a SET may complete, but only into a Free back
buffer (R164). -/
theorem hostStep_started (s t : State) (hs : s.started = true) (h : hostStep s = .next t) :
    SameEngines s t ∧ SameRing s t ∧ (s.backState ≠ .free → SameBack s t) := by
  rcases hostStep_effect s t h with ⟨p, n, rfl⟩ | ⟨addr, v, p, _, _, _, rfl⟩ | ⟨p, he⟩
  · simp [SameEngines, SameRing, SameBack]
  · simp [SameEngines, SameRing, SameBack]
  · cases he with
    | waits a => simp [SameEngines, SameRing, SameBack]
    | body t _ hb =>
      cases hb with
      | result v => simp [SameEngines, SameRing, SameBack]
      | fault d => simp [SameEngines, SameRing, SameBack]
      | start => rw [startBody, if_pos hs]; simp [SameEngines, SameRing, SameBack]
      | waits w => simp [SameEngines, SameRing, SameBack]
      | frame hh =>
        refine ⟨by simp [SameEngines], by simp [SameRing], fun hb => ?_⟩
        have hw : setHolds s = false := hh
        simp [setHolds, hs] at hw
        exact absurd hw hb
    | wrote off d =>
      rcases writeReg_cases off d { s with hostProg := p, hostNow := none } with h | h | h | h | h | h | h | h <;>
        rw [h] <;> simp [SameEngines, SameRing, SameBack]
    | read off => simp [SameEngines, SameRing, SameBack]

/-- Everything a step of a run that does not fault can do: TXDONE only with no event and no copy, and DMAERR nothing. -/
theorem Continuation.step_cases {s : State} {sched : Nat → Turn} {r : Nat → State} (hc : Continuation s sched r)
    (hff : FaultFree r) (j : Nat) :
    (sched j = .host ∧ hostStep (r j) = .next (r (j + 1)))
      ∨ (sched j = .ctrl ∧ r (j + 1) = ctrlStep (r j))
      ∨ (sched j = .txdma ∧ ((r j).started = false ∧ r (j + 1) = r j
          ∨ (r j).txcPending = none ∧ (r j).copy = none ∧ r (j + 1) = { r j with
              wire := (r j).wire ++ [(r j).buf (.front (r j).txIdx)]
              txcPending := some (r j).txIdx
              txIdx := (r j).txIdx.other }))
      ∨ (sched j = .cpydma ∧ ((r j).copy = none ∧ r (j + 1) = r j
          ∨ ∃ k, (r j).copy = some k ∧ r (j + 1) = copyEnd ((r j).setBuf (.front k.dst) ((r j).buf k.src))))
      ∨ (sched j = .dmaerr ∧ r (j + 1) = r j) := by
  have hrun := hc.fair.run j
  have hf := hff j
  have hf' := hff (j + 1)
  cases ht : sched j <;> rw [ht] at hrun <;> simp only [agentStep] at hrun
  · exact .inl ⟨rfl, hrun⟩
  · exact .inr (.inl ⟨rfl, (Host.Outcome.next.inj hrun).symm⟩)
  · rw [← Host.Outcome.next.inj hrun] at hf' ⊢
    refine .inr (.inr (.inl ⟨rfl, ?_⟩))
    cases hst : (r j).started with
    | false => exact .inl ⟨rfl, by simp [txDone, txDoneEnabled, hst]⟩
    | true =>
      have he : txDoneEnabled (r j) = true := by simp [txDoneEnabled, hst, hf]
      right
      cases hp : (r j).txcPending with
      | some i => simp [txDone, he, hp, raise, hf] at hf'
      | none =>
        cases hk : (r j).copy with
        | some k => simp [txDone, he, hp, hk, raise, hf] at hf'
        | none => exact ⟨rfl, rfl, by simp [txDone, he, hp, hk]⟩
  · rw [← Host.Outcome.next.inj hrun] at hf' ⊢
    refine .inr (.inr (.inr (.inl ⟨rfl, ?_⟩)))
    cases hk : (r j).copy with
    | none => exact .inl ⟨rfl, by simp [copyDone, hf, hk]⟩
    | some k => exact .inr ⟨k, rfl, by simp [copyDone, hf, hk]⟩
  · rw [← Host.Outcome.next.inj hrun] at hf' ⊢
    refine .inr (.inr (.inr (.inr ⟨rfl, ?_⟩)))
    rcases dmaErr_cases (r j) with h | ⟨_, h⟩
    · exact h
    · rw [h] at hf'; simp [raise, hf] at hf'

end Sys2Proof.Machine
end

