-- ==== Sys2Proof/Laws/Operands.lean ====
section
/-! SUPPORT. The small lemmas of the operand forms: packing and unpacking a triple (00_scope R17). -/

namespace Sys2Proof.Machine

/-- Appending a byte, as a number. -/
theorem toNat_append_byte {n : Nat} (x : BitVec n) (y : Byte) : (x ++ y).toNat = x.toNat * 256 + y.toNat := by
  rw [BitVec.toNat_append, ← Nat.shiftLeft_add_eq_or_of_lt y.isLt, Nat.shiftLeft_eq]

@[simp] theorem unpack_packTriple (t : Triple) : unpack (packTriple t) = t := by
  obtain ⟨a, b, c⟩ := t
  simp only [unpack, packTriple, Triple.mk.injEq]
  refine ⟨?_, ?_, ?_⟩ <;> apply BitVec.eq_of_toNat_eq <;>
    simp only [BitVec.extractLsb'_toNat, toNat_append_byte, Nat.shiftRight_eq_div_pow] <;> omega

@[simp] theorem packTriple_unpack (p : Packed) : packTriple (unpack p) = p := by
  apply BitVec.eq_of_toNat_eq
  simp only [unpack, packTriple, BitVec.extractLsb'_toNat, toNat_append_byte, Nat.shiftRight_eq_div_pow]
  omega

end Sys2Proof.Machine
end

