-- ==== Sys2Proof/Laws/PerInstr.lean ====
section
/-! SUPPORT. Statements about every instruction as syntax, one lemma per constructor. -/

namespace Sys2Proof.Laws.EncodeAdmitted

/-- The access of a well-formed instruction is admitted (R71): 4 bytes wide, aligned, inside the block. -/
def Statement (i : Instr) : Prop :=
  i.wf = true → (encode i).size = 4 ∧ alignedOff ((encode i).off.setWidth 12) = true ∧ (encode i).off ≤ 0xFFC#32

theorem aligned_le (off : BitVec 12) (h : alignedOff off = true) : off ≤ 0xFFC#12 := by
  have h0 : off.extractLsb' 0 2 = 0 := by simpa [alignedOff] using h
  have h1 : off.toNat % 4 = 0 := by simpa using congrArg BitVec.toNat h0
  have h2 := off.isLt
  rw [BitVec.le_def]
  have h3 : (0xFFC#12).toNat = 4092 := rfl
  omega

theorem off_statement (off : BitVec 12) (h : alignedOff off = true) :
    alignedOff ((off.setWidth 32).setWidth 12) = true ∧ off.setWidth 32 ≤ 0xFFC#32 := by
  have hl := BitVec.le_def.mp (aligned_le off h)
  refine ⟨by simpa using h, ?_⟩
  rw [BitVec.le_def]
  have := off.isLt
  simp only [BitVec.toNat_setWidth]
  have h3 : (0xFFC#12).toNat = 4092 := rfl
  have h4 : (0xFFC#32).toNat = 4092 := rfl
  omega

theorem cmd_statement (w : Word) : (cmdAccess w).size = 4 ∧ alignedOff ((cmdAccess w).off.setWidth 12) = true
    ∧ (cmdAccess w).off ≤ 0xFFC#32 := ⟨rfl, rfl, BitVec.le_def.mpr (Nat.zero_le _)⟩

theorem rgb2hsv : Statement .rgb2hsv := fun _ => cmd_statement _
theorem hsv2rgb : Statement .hsv2rgb := fun _ => cmd_statement _
theorem powc : Statement .powc := fun _ => cmd_statement _
theorem logc : Statement .logc := fun _ => cmd_statement _
theorem toi : Statement .toi := fun _ => cmd_statement _
theorem fromi : Statement .fromi := fun _ => cmd_statement _
theorem blend : Statement .blend := fun _ => cmd_statement _
theorem chbright : Statement .chbright := fun _ => cmd_statement _
theorem start : Statement .start := fun _ => cmd_statement _
theorem set : Statement .set := fun _ => cmd_statement _
theorem illegal (w : Word) : Statement (.illegal w) := fun _ => cmd_statement w
theorem wr (off : BitVec 12) (data : Word) : Statement (.wr off data) := fun h => by
  have ha : alignedOff off = true := (Bool.and_eq_true _ _ ▸ h).2
  exact ⟨rfl, off_statement off ha⟩
theorem rd (off : BitVec 12) : Statement (.rd off) := fun h => ⟨rfl, off_statement off h⟩

end Sys2Proof.Laws.EncodeAdmitted
end

