-- ==== Sys2Proof/Tests/Slice0.lean ====
section
/-! SUPPORT. Own tests, each about one step, and one witness theorem for the hypotheses of each statement of
Certificates/Slice0/Obligations.lean. Expected values are those of 95_test_vectors.md, of the worked words of 30_encoding.md
and of hand calculation; the tables of SQ are the spec's test instance, not the hardware's. -/

namespace Sys2Proof.Tests

open Sys2Proof.Machine

/-! ### A small machine: N = 1, RESET_BYTES = 2, SQ tables, P at 0x2000 -/

/-- The integer square root of a number below 2^16, bit by bit. -/
def isqrt (n : Nat) : Nat :=
  [128, 64, 32, 16, 8, 4, 2, 1].foldl (fun r b => if (r + b) * (r + b) ≤ n then r + b else r) 0

/-- A table of 256 entries. -/
def tableOf (f : Nat → Nat) : Vector Byte 256 := ⟨⟨(List.range 256).map fun x => BitVec.ofNat 8 (f x)⟩, by simp⟩

def sqCfg : Cfg where
  n := 1
  resetBytes := 2
  gapBytes := 1
  power := tableOf fun x => (x * x + 127) / 255
  log := tableOf fun x => isqrt (255 * x)
  basePage := 0x40000
  memRegions := [⟨0, 2 ^ 32⟩]
  dmaMayFail := true

def s0 : State := { State.resetOf sqCfg with mem := [(0x2000, 0xFF), (0x2002, 0x80)] }

/-- The pixel (FF, 00, 80) at 0x2000, encoded (2.8). -/
def encP : List Byte :=
  [0xFF, 0x0F, 0xF0, 0xFF, 0x0F, 0xF0, 0xFF, 0x0F, 0xF0, 0xFF, 0x0F, 0xF0] ++
  [0xF0, 0x0F, 0x00, 0xF0, 0x0F, 0x00, 0xF0, 0x0F, 0x00, 0xF0, 0x0F, 0x00] ++
  [0xFF, 0x0F, 0x00, 0xF0, 0x0F, 0x00, 0xF0, 0x0F, 0x00, 0xF0, 0x0F, 0x00] ++ [0x00, 0x00]

/-- A field of the next state. -/
def after {α : Type} (o : Host.Outcome State Fault Refusal) (f : State → α) : Option α :=
  match o with
  | .next s => some (f s)
  | _ => none

/-- Whether the step stopped with the given refusal. -/
def refusal (o : Host.Outcome State Fault Refusal) : Option Refusal :=
  match o with
  | .refused r => some r
  | _ => none

/-- Whether the step stopped with the given fault. -/
def stopped (o : Host.Outcome State Fault Refusal) : Option Fault :=
  match o with
  | .fault r => some r
  | _ => none

/-- Started, with a frame in BACK: D4, then START. -/
def sReady : State := { s0 with
  started := true, frameAddr := 0x2000, frameCount := 1, bufBack := encP, backId := 1, setCount := 1, backState := .readyToCopy }

/-- Then TXDONE (P2 step 5). -/
def sSent : State := { sReady with txcPending := some .front0, txIdx := .front1 }

/-- Then the transmit-complete handler (P2 step 6): BACK is being copied to FRONT0. -/
def sCopying : State := { sReady with
  txIdx := .front1, backState := .copying, copy := some ⟨.back, .front0⟩, frontId0 := 1, flipCount := 1 }

/-- Then COPYDONE (P2 step 7). -/
def sCopied : State := { sReady with
  txIdx := .front1, backState := .copying, cpcPending := true, frontId0 := 1, flipCount := 1, bufFront0 := encP }

/-- Then the copy-complete handler and TXDONE (P2 step 9): FRONT0 is fresher than FRONT1. -/
def sStale : State := { sReady with
  txcPending := some .front1, backState := .free, frontId0 := 1, flipCount := 1, bufFront0 := encP }

/-! ### WellFormed -/

theorem test_wf_wr_cmd : (Instr.wr 0x00 5).wf = false := by decide
theorem test_wf_wr_misaligned : (Instr.wr 0x0A 5).wf = false := by decide
theorem test_wf_wr : (Instr.wr 0xFFC 5).wf = true := by decide
theorem test_wf_rd_misaligned : (Instr.rd 0x3D).wf = false := by decide
theorem test_wf_rd : (Instr.rd 0x00).wf = true := by decide
theorem test_wf_illegal_legal_word : (Instr.illegal 0x0000000A).wf = false := by decide
theorem test_wf_illegal_op0 : (Instr.illegal 0x00000000).wf = true := by decide
theorem test_wf_illegal_op_high : (Instr.illegal 0x0000000B).wf = true := by decide
theorem test_wf_illegal_mbz : (Instr.illegal 0x80000001).wf = true := by decide
theorem test_wf_cfg : sqCfg.wf = true := by decide
theorem test_wf_cfg_no_pixel : { sqCfg with n := 0 }.wf = false := by decide
theorem test_wf_cfg_no_tail : { sqCfg with resetBytes := 0, gapBytes := 0 }.wf = false := by decide
theorem test_wf_cfg_gap_equal : { sqCfg with resetBytes := 6, gapBytes := 6 }.wf = false := by decide
theorem test_wf_cfg_gap : { sqCfg with resetBytes := 7, gapBytes := 6 }.wf = true := by decide

/-! ### Decode (the ten command words stand in Decode.lean) -/

/-- R71: the size is checked, then the alignment; outside the block nothing is decoded. -/
theorem test_decode_16_bit : decodeAccess ⟨.write, 0x00, 2, 1⟩ = .error .badSize := by decide
theorem test_decode_misaligned : decodeAccess ⟨.read, 0x02, 4, 0⟩ = .error .misaligned := by decide
theorem test_decode_last : decodeAccess ⟨.read, 0xFFC, 4, 0⟩ = .ok (.rd 0xFFC) := by decide
theorem test_decode_above : decodeAccess ⟨.read, 0x1000, 4, 0⟩ = .error .outsideBlock := by decide
theorem test_decode_below : decodeAccess ⟨.write, 0xFFFFFFFC, 4, 0⟩ = .error .outsideBlock := by decide
theorem test_decode_address : accessAt sqCfg .write 0x40000024 4 7 = ⟨.write, 0x24, 4, 7⟩ := by decide
theorem test_table_word_set : decodeTableWord 32 0x0000000A = some .set := by decide
theorem test_table_word_long : decodeTableWord 64 0x0000000A = none := by decide

/-! ### Colour commands -/

theorem test_rgb2hsv : after (exec .rgb2hsv { s0 with opa := 0xC86432 }) (·.result) = some 0x0EBFC8 := by decide
theorem test_rgb2hsv_wraps : after (exec .rgb2hsv { s0 with opa := 0xFF00FF }) (·.result) = some 0xD5FFFF := by decide
theorem test_hsv2rgb : after (exec .hsv2rgb { s0 with opa := 0x808080 }) (·.result) = some 0x3F807F := by decide
theorem test_hsv2rgb_region5 : after (exec .hsv2rgb { s0 with opa := 0xFFFFFF }) (·.result) = some 0xFF000F := by decide
theorem test_powc : after (exec .powc { s0 with opa := 0xFFFF2D }) (·.result) = some 0x000008 := by decide
theorem test_logc : after (exec .logc { s0 with opa := 0xABCD80 }) (·.result) = some 0x0000B4 := by decide
theorem test_toi : after (exec .toi { s0 with opa := 0xC86432 }) (·.result) = some 0x0EBFE1 := by decide
theorem test_fromi : after (exec .fromi { s0 with opa := 0x0EBFE1 }) (·.result) = some 0xC76331 := by decide
theorem test_blend : after (exec .blend { s0 with opa := 0x0AC8FF, opb := 0x146400, elapsed := 2, total := 3 }) (·.result)
    = some 0x108655 := by decide
theorem test_blend_div0_first : after (exec .blend { s0 with elapsed := 5 }) statusWord = some 0x00000380 := by decide
theorem test_chbright : after (exec .chbright { s0 with opa := 0x0A141E, factor := 255 }) (·.result) = some 0x09141E := by decide
theorem test_chbright_dim : after (exec .chbright { s0 with opa := 0xC86432, factor := 128 }) (·.result) = some 0x643219 := by
  decide

/-- W7, P1: the rendered value is POWER of the halfway point of the LOG values. -/
theorem test_render_pixel : renderPixel sqCfg ⟨0, 0, 8⟩ ⟨0, 0, 255⟩ 500 1000 = ⟨0, 1, 88⟩ := by rfl

theorem test_expand_set_frame : expand (.setFrame 0x2000 1) =
    [.access ⟨.write, 0x20, 4, 0x2000⟩, .access ⟨.write, 0x24, 4, 1⟩, .access ⟨.write, 0x00, 4, 0x0000000A⟩] := by decide

/-! ### Bus accesses -/

theorem test_wr_drops_high_bits : after (exec (.wr 0x10 0x000001FF) s0) (·.factor) = some 0xFF := by decide
theorem test_wr_read_only : exec (.wr 0x28 5) s0 = .next s0 := by rfl
theorem test_rd_opa : after (exec (.rd 0x08) { s0 with opa := 0x123456 }) (·.readData) = some 0x00123456 := by decide
theorem test_rd_reserved : after (exec (.rd 0x44) { s0 with readData := 9 }) (·.readData) = some 0 := by decide
theorem test_illegal : after (exec (.wr 0x00 0x00000011) s0) statusWord = some 0x00000280 := by decide
theorem test_command_while_faulted :
    after (exec (.wr 0x00 0x00000009) { s0 with fault := some .blendDiv0 }) (fun t => (t.started, t.hostNow))
      = some (false, some ⟨.write, 0, 4, 0x00000009⟩) := by decide

/-! ### The driver (2.9) -/

theorem test_start : after (exec .start s0) statusWord = some 0x00000004 := by decide
theorem test_set_frame :
    after (exec .set { s0 with frameAddr := 0x2000, frameCount := 1 }) (fun t => (t.bufBack, t.backId, statusWord t))
      = some (encP, 1, 0x00000001) := by decide
theorem test_set_count_before_hold : after (exec .set { sReady with frameCount := 7 }) (·.fault) = some (some .countMismatch) := by
  decide
theorem test_txdone : after (step { sReady with turns := [.txdma] }) statusWord = some 0x0000002D := by decide
theorem test_txdone_overrun : after (step { sSent with turns := [.txdma] }) (·.fault) = some (some .irqOverrun) := by decide
theorem test_txdone_late : after (step { sCopying with turns := [.txdma] }) statusWord = some 0x0000059E := by decide
theorem test_txc_back : after (step { sSent with turns := [.ctrl] }) statusWord = some 0x0000001E := by decide
theorem test_txc_front : after (step { sStale with turns := [.ctrl] }) (fun t => (t.copy, t.frontId1, t.flipCount))
    = some (some ⟨.front .front0, .front1⟩, 1, 2) := by decide
theorem test_copydone : after (step { sCopying with turns := [.cpydma] }) (fun t => (t.bufFront0, statusWord t))
    = some (encP, 0x0000004E) := by decide
theorem test_cpc : after (step { sCopied with turns := [.ctrl] }) statusWord = some 0x0000000C := by decide
theorem test_dmaerr : after (step { sReady with turns := [.dmaerr] }) (·.fault) = some (some .dmaError) := by decide

/-! ### The host -/

theorem test_fetch_word : after (step (s0.withFetchWord 32 0x9)) (·.started) = some true := by decide
theorem test_host_outside : refusal (step (placeAccess (accessAt sqCfg .read 0x40001000 4 0) s0)) = some .outsideBlock := by decide
theorem test_host_store : after (step { s0 with turns := [.host], hostProg := [.store 0x3000 7] })
    (fun t => (readByte t.mem 0x3000, readByte t.mem 0x2000)) = some (7, 0xFF) := by decide
theorem test_host_store_nowhere :
    stopped (step { s0 with cfg := { sqCfg with memRegions := [] }, turns := [.host], hostProg := [.store 0x3000 7] })
      = some .noSystemMemory := by decide
theorem test_boot_refuses : refusal (boot { sqCfg with n := 0 }) = some .illFormedConfig := by decide

/-! ### Witnesses: encoding -/

theorem witness_DecodeOfEncode : (Instr.wr 0x004 0).wf = true ∧ (Instr.wr 0xFFC 0).wf = true ∧ (Instr.rd 0x000).wf = true
    ∧ (Instr.rd 0xFFC).wf = true ∧ (Instr.illegal 0x0000000F).wf = true ∧ Instr.set.wf = true := by decide

theorem witness_EncodeOfDecode : decodeAccess ⟨.write, 0x00, 4, 0x10⟩ = .ok (.illegal 0x10)
    ∧ decodeAccess ⟨.write, 0xFFC, 4, 3⟩ = .ok (.wr 0xFFC 3) ∧ decodeAccess ⟨.read, 0x00, 4, 9⟩ = .ok (.rd 0x00) := by decide

/-- BASE, BASE + 0xFFC: admitted; a narrow access, BASE + 1, BASE + 0xFFF: not; BASE − 1, BASE + 0x1000: outside. -/
theorem witness_AccessAdmission :
    (4 = 4 ∧ (0x40000000 : Word).toNat % 4 = 0 ∧ sqCfg.base.toNat ≤ (0x40000000 : Word).toNat
      ∧ (0x40000000 : Word).toNat ≤ sqCfg.base.toNat + 0xFFC)
    ∧ (4 = 4 ∧ (0x40000FFC : Word).toNat % 4 = 0 ∧ sqCfg.base.toNat ≤ (0x40000FFC : Word).toNat
      ∧ (0x40000FFC : Word).toNat ≤ sqCfg.base.toNat + 0xFFC)
    ∧ ¬ (2 = 4) ∧ ¬ ((0x40000001 : Word).toNat % 4 = 0) ∧ ¬ ((0x40000FFF : Word).toNat ≤ sqCfg.base.toNat + 0xFFC)
    ∧ (0x3FFFFFFF : Word).toNat < sqCfg.base.toNat ∧ sqCfg.base.toNat + 0xFFF < (0x40001000 : Word).toNat := by decide

def sStuck (addr : Word) (size : Nat) : State :=
  { s0 with hostNow := some (accessAt sqCfg .write addr size 1), turns := [.host] }

theorem witness_MisalignedAccessIsStuck_size :
    (sStuck 0x40000000 2).hostNow = some (accessAt (sStuck 0x40000000 2).cfg .write 0x40000000 2 1)
    ∧ (sStuck 0x40000000 2).turns = [.host] ∧ (sStuck 0x40000000 2).cfg.base.toNat ≤ (0x40000000 : Word).toNat
    ∧ (0x40000000 : Word).toNat ≤ (sStuck 0x40000000 2).cfg.base.toNat + 0xFFF ∧ 2 ≠ 4 := by decide

theorem witness_MisalignedAccessIsStuck_alignment :
    (sStuck 0x40000FFF 4).hostNow = some (accessAt (sStuck 0x40000FFF 4).cfg .write 0x40000FFF 4 1)
    ∧ (sStuck 0x40000FFF 4).turns = [.host] ∧ (sStuck 0x40000FFF 4).cfg.base.toNat ≤ (0x40000FFF : Word).toNat
    ∧ (0x40000FFF : Word).toNat ≤ (sStuck 0x40000FFF 4).cfg.base.toNat + 0xFFF ∧ (0x40000FFF : Word).toNat % 4 ≠ 0 := by decide

/-- The host's program comes to a misaligned and to a narrow access. -/
theorem witness_MisalignedAccessIsStuck_issued :
    let s : State := { s0 with turns := [.host], hostProg := [.access (accessAt s0.cfg .write 0x40000FFF 4 1)] }
    let u : State := { s0 with turns := [.host], hostProg := [.access (accessAt s0.cfg .read 0x40000000 1 0)] }
    s.hostNow = none ∧ s.turns = [.host] ∧ s.cfg.base.toNat ≤ (0x40000FFF : Word).toNat
    ∧ (0x40000FFF : Word).toNat ≤ s.cfg.base.toNat + 0xFFF ∧ (0x40000FFF : Word).toNat % 4 ≠ 0
    ∧ u.hostNow = none ∧ u.turns = [.host] ∧ u.cfg.base.toNat ≤ (0x40000000 : Word).toNat ∧ 1 ≠ 4 := by decide

theorem witness_IllegalWordsFault : (0x00000010 : Word).toNat / 16 ≠ 0 ∧ (0x00000000 : Word).toNat % 16 = 0
    ∧ 0xB ≤ (0x0000000B : Word).toNat % 16 ∧ 0xB ≤ (0x0000000F : Word).toNat % 16 ∧ s0.fault = none
    ∧ ((0x00000001 : Word).toNat / 16 = 0 ∧ 1 ≤ (0x00000001 : Word).toNat % 16 ∧ (0x00000001 : Word).toNat % 16 ≤ 0xA)
    ∧ ((0x0000000A : Word).toNat / 16 = 0 ∧ 1 ≤ (0x0000000A : Word).toNat % 16 ∧ (0x0000000A : Word).toNat % 16 ≤ 0xA) := by
  decide

/-! ### Witnesses: steps, reset, configuration -/

def sWaiting : State := { sReady with hostNow := some ⟨.write, 0, 4, 0xA⟩, turns := [.host] }

def sAboutToRead : State := { s0 with hostProg := [.access ⟨.read, 0x2C, 4, 0⟩, .store 0 1], turns := [.host, .txdma] }

theorem witness_StepRunsDecodedAccess_waiting : sWaiting.turns = [.host] ∧ decodeAccess ⟨.write, 0, 4, 0xA⟩ = .ok .set
    ∧ sWaiting.hostNow = some ⟨.write, 0, 4, 0xA⟩ := by decide

theorem witness_StepRunsDecodedAccess_next : sAboutToRead.turns = [.host, .txdma]
    ∧ decodeAccess ⟨.read, 0x2C, 4, 0⟩ = .ok (.rd 0x2C) ∧ sAboutToRead.hostNow = none
    ∧ sAboutToRead.hostProg = [.access ⟨.read, 0x2C, 4, 0⟩, .store 0 1] := by decide

theorem witness_StepRunsScheduledAgent : sAboutToRead.turns = [.host, .txdma] ∧ s0.turns = [] := by decide

theorem witness_ResetLeavesStatedValues : { sCopied with fault := some .dmaError }.cfg = sqCfg
    ∧ s0 = resetBlock [] [] { sCopied with fault := some .dmaError } := ⟨rfl, rfl⟩

theorem witness_ResetHasInv : sqCfg.wf = true := by decide

/-- N = 1 and RESET_BYTES = 2 at 9.6 MHz, for a threshold in seconds. -/
def sqParams (resetBytes : Nat) (tReset : PosReal) : Params where
  n := 1
  resetBytes := resetBytes
  spiHz := ⟨9600000, by norm_num⟩
  tReset := tReset
  power := sqCfg.power
  log := sqCfg.log
  basePage := sqCfg.basePage
  memRegions := sqCfg.memRegions
  dmaMayFail := sqCfg.dmaMayFail

/-- 1 µs is 1.2 bytes at 9.6 MHz. -/
theorem witness_BootRefusesIllFormed_boots :
    let p := sqParams 2 ⟨1 / 1000000, by norm_num⟩
    p.Describes sqCfg ∧ 1 ≤ p.n ∧ 1 ≤ p.resetBytes ∧ p.tReset.val < (p.resetBytes : ℝ) * 8 / p.spiHz.val := by
  have e : ⌊(1 / 1000000 * 9600000 / 8 : ℝ)⌋₊ = 1 := by
    rw [Nat.floor_eq_iff (by norm_num)]
    norm_num
  refine ⟨⟨rfl, rfl, e.symm, rfl, rfl, rfl, rfl, rfl⟩, by decide, by decide, ?_⟩
  norm_num [sqParams]

/-- 5 µs are 6 bytes at 9.6 MHz: a tail of 6 bytes lasts T_RESET itself and is refused, as it must exceed it. -/
theorem witness_BootRefusesIllFormed_refused :
    let p := sqParams 6 ⟨5 / 1000000, by norm_num⟩
    p.Describes { sqCfg with resetBytes := 6, gapBytes := 6 }
      ∧ ¬ (1 ≤ p.n ∧ 1 ≤ p.resetBytes ∧ p.tReset.val < (p.resetBytes : ℝ) * 8 / p.spiHz.val) := by
  have e : ⌊(5 / 1000000 * 9600000 / 8 : ℝ)⌋₊ = 6 := by
    rw [Nat.floor_eq_iff (by norm_num)]
    norm_num
  refine ⟨⟨rfl, rfl, e.symm, rfl, rfl, rfl, rfl, rfl⟩, ?_⟩
  norm_num [sqParams]

/-- An irrational clock rate is a configuration, and is described. -/
theorem test_irrational_rate : Irrational { sqParams 2 ⟨1, one_pos⟩ with spiHz := ⟨√2, by positivity⟩ }.spiHz.val :=
  irrational_sqrt_two

/-! ### Witnesses: bus accesses and faults -/

theorem witness_ReadsReturnRegisters : (0x44 : BitVec 12).toNat % 4 = 0 ∧ 0x44 ≤ (0x44 : BitVec 12).toNat
    ∧ (0xFFC : BitVec 12).toNat % 4 = 0 ∧ 0x44 ≤ (0xFFC : BitVec 12).toNat := by decide

theorem witness_WritesStoreOperands : (0x04 : BitVec 12).toNat % 4 = 0
    ∧ (0x04 : BitVec 12).toNat ∉ [0x00, 0x08, 0x0C, 0x10, 0x14, 0x18, 0x20, 0x24] ∧ (0x1C : BitVec 12).toNat % 4 = 0
    ∧ (0x1C : BitVec 12).toNat ∉ [0x00, 0x08, 0x0C, 0x10, 0x14, 0x18, 0x20, 0x24] ∧ (0xFFC : BitVec 12).toNat % 4 = 0
    ∧ (0xFFC : BitVec 12).toNat ∉ [0x00, 0x08, 0x0C, 0x10, 0x14, 0x18, 0x20, 0x24] := by decide

theorem witness_ReadOnlyWritesIgnored : (0x40 : BitVec 12).toNat % 4 = 0
    ∧ (0x40 : BitVec 12).toNat ∈ [0x04, 0x1C, 0x28, 0x2C, 0x30, 0x34, 0x38, 0x3C, 0x40]
    ∧ (0x44 : BitVec 12).toNat % 4 = 0 ∧ 0x44 ≤ (0x44 : BitVec 12).toNat
    ∧ (0xFFC : BitVec 12).toNat % 4 = 0 ∧ 0x44 ≤ (0xFFC : BitVec 12).toNat := by decide

theorem witness_ReadAfterWrite : ((0x24 : BitVec 12), (0xFFFFFFFF : Word)) ∈ [((0x08 : BitVec 12), (0x00FFFFFF : Word)),
    (0x0C, 0x00FFFFFF), (0x10, 0x000000FF), (0x14, 0xFFFFFFFF), (0x18, 0xFFFFFFFF), (0x20, 0xFFFFFFFF), (0x24, 0xFFFFFFFF)] := by
  decide

def sFaulted : State := { sCopying with
  fault := some .copyLate, turns := [.host], hostProg := [.access ⟨.write, 0, 4, 0x9⟩] }

theorem witness_FaultedBlockIsHalted : sFaulted.fault = some .copyLate ∧ Turn.txdma ≠ Turn.host ∧ isCommand .start = true
    ∧ isCommand (.illegal 0) = true ∧ (0xFFC : BitVec 12).toNat % 4 = 0 ∧ (0x04 : BitVec 12).toNat % 4 = 0
    ∧ (0x04 : BitVec 12) ≠ 0 := by decide

theorem witness_FaultIsSticky : sFaulted.fault = some .copyLate
    ∧ step sFaulted = .next { sFaulted with turns := [], hostProg := [], hostNow := some ⟨.write, 0, 4, 0x9⟩ } :=
  ⟨rfl, rfl⟩

theorem witness_FaultsArePrecise : sCopying.fault = none
    ∧ step { sCopying with turns := [.txdma] } = .next { sCopying with fault := some .copyLate } := ⟨rfl, rfl⟩

/-! ### Witnesses: colour -/

/-- Black; red, green and blue maximum; a gray that is not black. -/
theorem witness_RgbToHsvFormula : max 0 (max 0 0) = 0 ∧ (rgbToHsv ⟨0, 0, 0⟩).c1 = 0 ∧ max 1 (max 1 1) ≠ 0
    ∧ (rgbToHsv ⟨1, 1, 1⟩).c1 = 0
    ∧ ((rgbToHsv ⟨255, 255, 254⟩).c1 ≠ 0 ∧ max 255 (max 255 254) = 255)
    ∧ ((rgbToHsv ⟨254, 255, 255⟩).c1 ≠ 0 ∧ max 254 (max 255 255) ≠ 254 ∧ max 254 (max 255 255) = 255)
    ∧ ((rgbToHsv ⟨0, 0, 1⟩).c1 ≠ 0 ∧ max 0 (max 0 1) ≠ 0) := by decide

/-- The ends of the red, green and blue ranges. -/
theorem witness_HueSectorRanges :
    ((rgbToHsv ⟨255, 255, 254⟩).c1 ≠ 0 ∧ (rgbToHsv ⟨255, 255, 254⟩).c0 = 43)
    ∧ ((rgbToHsv ⟨255, 0, 255⟩).c1 ≠ 0 ∧ (rgbToHsv ⟨255, 0, 255⟩).c0 = 213)
    ∧ ((rgbToHsv ⟨254, 255, 255⟩).c1 ≠ 0 ∧ (rgbToHsv ⟨254, 255, 255⟩).c0 = 128)
    ∧ ((rgbToHsv ⟨0, 0, 1⟩).c1 ≠ 0 ∧ (rgbToHsv ⟨0, 0, 1⟩).c0 = 171) ∧ (rgbToHsv ⟨7, 7, 7⟩).c1 = 0 := by decide

/-- Hues 0, 42 | 43, 85 | 86, 128 | 129, 171 | 172, 214 | 215, 255: the ends of the six regions. -/
theorem witness_HsvToRgbFormula : (0 : Byte).toNat = 0 ∧ (1 : Byte).toNat ≠ 0
    ∧ [0, 42, 43, 85, 86, 128, 129, 171, 172, 214, 215, 255].map (fun h : Byte => h.toNat / 43)
      = [0, 0, 1, 1, 2, 2, 3, 3, 4, 4, 5, 5] := by decide

theorem witness_BlendFormula : 1 ≤ 1 ∧ 1 ≤ 1 ∧ (blendTriple ⟨9, 9, 9⟩ ⟨1, 1, 1⟩ 1 1).c2 = 1 := by decide

theorem witness_BlendEndpointsExact : 1 ≤ 3 ∧ 1 ≤ 3 ∧ 3 ≤ 3 ∧ (7 : Byte).toNat ≤ (7 : Byte).toNat
    ∧ (fun x : Triple => x.c1.toNat) ∈ [fun x : Triple => x.c0.toNat, fun x => x.c1.toNat, fun x => x.c2.toNat] := by
  refine ⟨by decide, by decide, by decide, by decide, by simp⟩

/-- A keyframe that renders exactly, and one that does not (ROUNDTRIP fails for SQ at 22, first of all). -/
theorem witness_RenderedEndpointNeedsRoundTrip : fromInterp sqCfg (toInterp sqCfg ⟨255, 255, 255⟩) = ⟨255, 255, 255⟩
    ∧ curve sqCfg.power (curve sqCfg.log 22) = 21 ∧ RoundTrip sqCfg 255 ∧ 1 ≤ 1 := ⟨by rfl, by rfl, by rfl, by decide⟩

theorem witness_Rgb2hsvResult : s0.fault = none := by decide

theorem witness_Hsv2rgbResult : s0.fault = none := by decide

theorem witness_CurveCommandsRead : s0.fault = none ∧ { s0 with opa := 0xFFFFFF }.opa = 0xFFFF#16 ++ 0xFF#8 := by decide

theorem witness_InterpolatableConversions : s0.fault = none ∧ { s0 with opa := 0xC86432 }.opa = packTriple ⟨200, 100, 50⟩ := by
  decide

/-- TOTAL = 0; ELAPSED one above TOTAL; ELAPSED = TOTAL; ELAPSED = 0; equal operands. -/
theorem witness_BlendResult : s0.fault = none ∧ s0.total = 0
    ∧ ((1 : Word) ≠ 0 ∧ (1 : Word).toNat < (2 : Word).toNat)
    ∧ ((0xFFFFFFFF : Word) ≠ 0 ∧ (0xFFFFFFFF : Word).toNat ≤ (0xFFFFFFFF : Word).toNat)
    ∧ ((1 : Word) ≠ 0 ∧ (0 : Word).toNat ≤ (1 : Word).toNat ∧ s0.elapsed = 0) ∧ s0.opa = s0.opb
    ∧ s0.opa = packTriple ⟨0, 0, 0⟩ ∧ s0.opb = packTriple ⟨0, 0, 0⟩ := by decide

theorem witness_ChbrightResult : s0.fault = none ∧ s0.opa = packTriple ⟨0, 0, 0⟩ ∧ s0.factor = 0 ∧ s0.opa = 0
    ∧ { s0 with factor := 255 }.factor = 255 := by decide

/-! ### Witnesses: the encoder -/

theorem witness_EncodedFrameLayout : [(⟨0xFF, 0, 0x80⟩ : Triple)].length = sqCfg.n ∧ 0 < 1 ∧ 35 < 36 * sqCfg.n
    ∧ encFrame sqCfg [⟨0xFF, 0, 0x80⟩] = encP ∧ encP[33]? = some 0xF0 ∧ encP[34]? = some 0x0F ∧ encP[35]? = some 0x00 := by decide

theorem witness_EncoderRoundTrip : encChannel 0xA5 = encChannel 0xA5 ∧ [(⟨0xFF, 0, 0x80⟩ : Triple)].length = sqCfg.n
    ∧ decFrame sqCfg encP = some [⟨0xFF, 0, 0x80⟩] := by decide

/-! ### Witnesses: the driver -/

theorem witness_StartBeginsRing : s0.fault = none ∧ s0.started = false ∧ sReady.fault = none ∧ sReady.started = true := by decide

/-- A wrong count; a hold; an array that ends at 2^32; one that ends one byte later; one that does not exist. -/
theorem witness_SetOutcome : (s0.fault = none ∧ s0.frameCount.toNat ≠ s0.cfg.n)
    ∧ (sReady.fault = none ∧ sReady.frameCount.toNat = sReady.cfg.n ∧ sReady.started = true ∧ sReady.backState ≠ .free)
    ∧ (sStale.fault = none ∧ sStale.frameCount.toNat = sStale.cfg.n ∧ sStale.backState = .free
      ∧ memOK sStale.cfg (0xFFFFFFFD : Word).toNat (3 * sStale.cfg.n) = true ∧ (0xFFFFFFFD : Word).toNat + 3 * sStale.cfg.n ≤ 2 ^ 32
      ∧ 2 ^ 32 < (0xFFFFFFFE : Word).toNat + 3 * sStale.cfg.n)
    ∧ memOK { sqCfg with memRegions := [] } 0x2000 3 = false := by decide

theorem witness_SetBeforeStartCompletes_set :
    let s := { s0 with frameCount := 1, frameAddr := 0x2000 }
    s.fault = none ∧ s.started = false ∧ s.frameCount.toNat = s.cfg.n
      ∧ memReadable s.cfg s.frameAddr.toNat (3 * s.cfg.n) = true := by decide

theorem sq_memory_wf : Memory.wf s0.mem = true := by decide

/-- Reset with a host program and a schedule. -/
def sBoot (prog : List HostAct) (turns : List Turn) : State :=
  { State.resetOf sqCfg with mem := [(0x2000, 0xFF), (0x2002, 0x80)], hostProg := prog, turns := turns }

theorem sBoot_reachable (prog : List HostAct) (turns : List Turn) : Reachable (sBoot prog turns) :=
  .boot sqCfg _ prog turns (by decide) (by decide)

theorem witness_SetBeforeStartCompletes_reached : Reachable (sBoot [] []) ∧ (sBoot [] []).started = false :=
  ⟨sBoot_reachable _ _, rfl⟩

theorem witness_SetCountEqualsBackId_reached : Reachable (sBoot [] []) := sBoot_reachable _ _

theorem witness_NoBufferIsTorn_reached : Reachable (sBoot [] []) := sBoot_reachable _ _

/-- A copy that lands, and a SET; the buffers are black or P before and after. -/
theorem witness_NoBufferIsTorn_step : step { sCopying with turns := [.cpydma] } = .next sCopied
    ∧ (∀ b : Buf, sCopying.buf b = encP ∨ sCopying.buf b = s0.bufFront0)
    ∧ sCopied.setCount = sCopying.setCount
    ∧ (setFrame (framePixels sStale) sStale).setCount ≠ sStale.setCount ∧ encFrame sqCfg (framePixels sStale) = encP := by
  refine ⟨rfl, ?_, rfl, by decide, by decide⟩
  rintro (_ | _ | _)
  · exact .inl rfl
  · exact .inr rfl
  · exact .inr rfl

/-- What a run that does not stop reaches is reachable. -/
theorem reachable_run (k : Nat) (s t : State) (hs : Reachable s) (h : Sys2Proof.core.run k s = .next t) : Reachable t := by
  induction k generalizing s with
  | zero =>
    cases h
    exact hs
  | succ k ih =>
    cases hu : step s with
    | next u =>
      simp only [Host.Core.run, Sys2Proof.core, hu] at h
      exact ih u (.step s u hs hu) h
    | fault r => simp [Host.Core.run, Sys2Proof.core, hu] at h
    | refused r => simp [Host.Core.run, Sys2Proof.core, hu] at h

def progSetStart : List HostAct :=
  [.access ⟨.write, 0x20, 4, 0x2000⟩, .access ⟨.write, 0x24, 4, 1⟩, .access ⟨.write, 0, 4, 0xA⟩, .access ⟨.write, 0, 4, 0x9⟩]

/-- D10: a copy in flight is reached. -/
def sReachedCopy : State := { sCopying with wire := [s0.bufFront0] }

theorem witness_OneCopyInFlight_copy :
    Reachable sReachedCopy ∧ sReachedCopy.fault = none ∧ sReachedCopy.copy = some ⟨.back, .front0⟩ :=
  ⟨reachable_run 6 (sBoot progSetStart [.host, .host, .host, .host, .txdma, .ctrl]) _ (sBoot_reachable _ _) rfl, rfl, rfl⟩

/-- D2: an event that waits for the handler is reached. -/
def sReachedEvent : State := { s0 with started := true, txIdx := .front1, txcPending := some .front0, wire := [s0.bufFront0] }

theorem witness_OneCopyInFlight_event : Reachable sReachedEvent ∧ sReachedEvent.fault = none
    ∧ sReachedEvent.cpcPending = false ∧ sReachedEvent.txcPending ≠ none :=
  ⟨reachable_run 2 (sBoot [.access ⟨.write, 0, 4, 0x9⟩] [.host, .txdma]) _ (sBoot_reachable _ _) rfl, rfl, rfl, by decide⟩

theorem witness_OnlyCopyCompleteLiftsHold : sCopied.started = true ∧ sCopied.backState ≠ .free
    ∧ step { sCopied with turns := [.ctrl] } = .next { sCopied with cpcPending := false, backState := .free } := by
  refine ⟨rfl, by decide, rfl⟩

theorem witness_HeldSetCompletes :
    let s := { sCopied with hostNow := some ⟨.write, 0, 4, 0xA⟩, turns := [.ctrl, .host] }
    s.fault = none ∧ s.started = true ∧ s.backState = .copying ∧ s.cpcPending = true
      ∧ s.hostNow = some ⟨.write, 0, 4, 0xA⟩ ∧ s.frameCount.toNat = s.cfg.n
      ∧ memReadable s.cfg s.frameAddr.toNat (3 * s.cfg.n) = true ∧ s.turns = .ctrl :: .host :: [] := by decide

theorem witness_TxDoneStep : { s0 with turns := [.txdma] }.turns = .txdma :: [] ∧ s0.started = false ∧ sFaulted.fault ≠ none
    ∧ (sSent.started = true ∧ sSent.fault = none ∧ sSent.txcPending ≠ none)
    ∧ (sCopying.started = true ∧ sCopying.fault = none ∧ sCopying.txcPending = none ∧ sCopying.copy ≠ none)
    ∧ (sReady.started = true ∧ sReady.fault = none ∧ sReady.txcPending = none ∧ sReady.copy = none) := by decide

theorem witness_CopyCompleteHandlerStep : { s0 with turns := [.ctrl] }.turns = .ctrl :: [] ∧ sFaulted.fault ≠ none
    ∧ (s0.cpcPending = false ∧ s0.txcPending = none)
    ∧ (sCopied.fault = none ∧ sCopied.cpcPending = true ∧ sCopied.backState = .copying)
    ∧ { sCopied with backState := .free }.backState ≠ .copying := by decide

/-- BACK waits; the fronts differ; they do not; each with and without a copy in flight where a copy would start. -/
theorem witness_TransmitCompleteHandlerStep : { sSent with turns := [.ctrl] }.turns = .ctrl :: []
    ∧ (sSent.fault = none ∧ sSent.cpcPending = false ∧ sSent.txcPending = some .front0 ∧ sSent.backState = .readyToCopy
      ∧ sSent.copy = none ∧ { sSent with copy := some ⟨.back, .front1⟩ }.copy ≠ none)
    ∧ (sStale.fault = none ∧ sStale.cpcPending = false ∧ sStale.txcPending = some .front1 ∧ sStale.backState ≠ .readyToCopy
      ∧ sStale.frontId0 ≠ sStale.frontId1 ∧ sStale.copy = none ∧ { sStale with copy := some ⟨.back, .front1⟩ }.copy ≠ none)
    ∧ { sStale with frontId1 := 1 }.frontId0 = { sStale with frontId1 := 1 }.frontId1 := by decide

theorem witness_CopyDoneStep : { sCopying with turns := [.cpydma] }.turns = .cpydma :: [] ∧ s0.copy = none
    ∧ sFaulted.fault ≠ none ∧ (sCopying.copy = some ⟨.back, .front0⟩ ∧ sCopying.fault = none) := by decide

theorem witness_DmaErrorStep : { s0 with turns := [.dmaerr] }.turns = .dmaerr :: []
    ∧ (sReady.cfg.dmaMayFail = true ∧ sReady.fault = none ∧ sReady.started = true) ∧ sCopying.copy ≠ none
    ∧ { sqCfg with dmaMayFail := false }.dmaMayFail = false ∧ sFaulted.fault ≠ none ∧ (s0.started = false ∧ s0.copy = none) := by
  decide

/-! ### Witnesses: frames and invariants -/

theorem witness_InstructionFrame_command : exec .start s0 = .next { s0 with started := true } ∧ isCommand .start = true
    ∧ isColour .blend = true ∧ exec .blend s0 = .next { s0 with fault := some .blendDiv0 } := ⟨rfl, rfl, rfl, rfl⟩

theorem witness_InstructionFrame_access : exec (.wr 0x08 5) s0 = .next { s0 with opa := 5 } ∧ (0x08 : BitVec 12) ≠ 0
    ∧ exec (.rd 0x3C) s0 = .next { s0 with readData := 1 } := ⟨rfl, by decide, rfl⟩

theorem encP_encodes : EncodesFrame sqCfg encP := ⟨[⟨0xFF, 0, 0x80⟩], rfl, by decide⟩

theorem black_encodes : EncodesFrame sqCfg s0.bufFront0 := ⟨blackFrame sqCfg, rfl, rfl⟩

/-- The buffers of the states of this file. -/
theorem buffers_encode (s : State) (hc : s.cfg = sqCfg) (hb : s.bufBack = encP ∨ s.bufBack = s0.bufFront0)
    (h0 : s.bufFront0 = encP ∨ s.bufFront0 = s0.bufFront0) (h1 : s.bufFront1 = encP ∨ s.bufFront1 = s0.bufFront0) (b : Buf) :
    EncodesFrame s.cfg (s.buf b) := by
  rw [hc]
  rcases b with _ | (_ | _)
  · rcases hb with h | h <;> simp only [State.buf, h, encP_encodes, black_encodes]
  · rcases h0 with h | h <;> simp only [State.buf, h, encP_encodes, black_encodes]
  · rcases h1 with h | h <;> simp only [State.buf, h, encP_encodes, black_encodes]

theorem witness_EveryStepKeepsInv : Inv s0 ∧ step { s0 with turns := [.txdma] } = .next s0 :=
  ⟨⟨by decide, by decide, buffers_encode s0 rfl (.inr rfl) (.inr rfl) (.inr rfl), by simp [s0, State.resetOf], rfl,
    by simp [s0, State.resetOf], by simp [s0, State.resetOf], by simp [s0, State.resetOf], by simp [s0, State.resetOf],
    by simp [s0, State.resetOf]⟩, rfl⟩

theorem witness_NothingMovesBeforeStart : Inv s0 ∧ s0.started = false ∧ Turn.dmaerr ≠ Turn.host ∧ s0.fault = none :=
  ⟨witness_EveryStepKeepsInv.1, rfl, by decide, rfl⟩

theorem sSent_inv (ts : List Turn) : Inv { sSent with turns := ts } :=
  ⟨witness_ResetHasInv, sq_memory_wf, buffers_encode _ rfl (.inl rfl) (.inr rfl) (.inr rfl), by simp [sSent, sReady, s0, State.resetOf], rfl,
    by simp [sSent, sReady, s0, State.resetOf], by simp [sSent, sReady], by rintro i ⟨⟩; exact ⟨rfl, rfl⟩,
    by simp [sSent, sReady], by simp [sSent, sReady]⟩

theorem sStale_inv (ts : List Turn) : Inv { sStale with turns := ts } :=
  ⟨witness_ResetHasInv, sq_memory_wf, buffers_encode _ rfl (.inl rfl) (.inl rfl) (.inr rfl), by simp [sStale, sReady, s0, State.resetOf], rfl,
    by simp [sStale, sReady, s0, State.resetOf], by simp [sStale], by rintro i ⟨⟩; exact ⟨rfl, rfl⟩,
    by simp [sStale, sReady], fun _ _ => rfl⟩

theorem sCopied_inv (ts : List Turn) : Inv { sCopied with turns := ts } :=
  ⟨witness_ResetHasInv, sq_memory_wf, buffers_encode _ rfl (.inl rfl) (.inl rfl) (.inr rfl), by simp [sCopied, sReady, s0, State.resetOf], rfl,
    by simp [sCopied, sReady, s0, State.resetOf], fun _ => .inr rfl, by simp [sCopied, sReady, s0, State.resetOf],
    by simp [sCopied, sReady], fun _ _ => rfl⟩

theorem witness_SetCountEqualsBackId_set :
    after (step (placeAccess ⟨.write, 0, 4, 0xA⟩ { s0 with frameAddr := 0x2000, frameCount := 1 }))
      (fun t => (t.setCount, t.backId)) = some (1, 1) ∧ s0.setCount = 0 := by decide

theorem witness_FresherFrontIsTheOther : Inv { sStale with turns := [.ctrl] } ∧ sStale.fault = none ∧ sStale.cpcPending = false
    ∧ sStale.txcPending = some .front1 ∧ sStale.backState ≠ .readyToCopy ∧ sStale.frontId0 ≠ sStale.frontId1
    ∧ nextTurn { sStale with turns := [.ctrl] } = .ctrl
    ∧ step { sStale with turns := [.ctrl] } = .next { sStale with
        txcPending := none, copy := some ⟨.front .front0, .front1⟩, frontId1 := 1, flipCount := 2 } :=
  ⟨sStale_inv _, by decide, by decide, by decide, by decide, by decide, rfl, rfl⟩

theorem witness_FrontStableWhileSent : Inv { sSent with turns := [.ctrl] } ∧ sSent.started = true
    ∧ step { sSent with turns := [.ctrl] } = .next sCopying := ⟨sSent_inv _, rfl, rfl⟩

theorem witness_BackStateTransitions_copying : Inv { sSent with turns := [.ctrl] }
    ∧ step { sSent with turns := [.ctrl] } = .next sCopying := ⟨sSent_inv _, rfl⟩

theorem witness_BackStateTransitions_free : Inv { sCopied with turns := [.ctrl] }
    ∧ step { sCopied with turns := [.ctrl] } = .next { sCopied with cpcPending := false, backState := .free } :=
  ⟨sCopied_inv _, rfl⟩

theorem witness_OnlyOwnersWriteBuffers : step { sCopying with turns := [.cpydma] } = .next sCopied
    ∧ sCopied.buf (.front .front0) ≠ sCopying.buf (.front .front0)
    ∧ (setFrame [⟨0xFF, 0, 0x80⟩] s0).bufBack ≠ s0.bufBack := ⟨rfl, by decide, by decide⟩

theorem witness_CountersAreSingleWriter : step { sSent with turns := [.ctrl] } = .next sCopying := rfl

theorem witness_OnlyTxDoneExtendsWire : step { sReady with turns := [.txdma] } = .next { sSent with wire := [s0.bufFront0] } := rfl

theorem witness_OnlyHostStoresWriteMemory : Memory.wf s0.mem = true
    ∧ step { s0 with turns := [.host], hostProg := [.store 0x3000 7] }
      = .next { s0 with mem := [(0x2000, 0xFF), (0x2002, 0x80), (0x3000, 7)] } := ⟨by decide, rfl⟩

theorem witness_ColourDataStaysInColour : step { s0 with turns := [.host], hostProg := [.access ⟨.write, 0, 4, 0x2⟩] } = .next s0 :=
  rfl

theorem witness_SetFrameReachesWire :
    let s := { sSent with turns := [.ctrl, .cpydma, .ctrl, .txdma, .ctrl, .cpydma, .txdma] }
    Inv s ∧ s.fault = none ∧ s.backState = .readyToCopy ∧ s.txcPending = some .front0 ∧ s.cpcPending = false
      ∧ s.turns = [.ctrl, .cpydma, .ctrl, .txdma, .ctrl, .cpydma, .txdma] ++ [] :=
  ⟨sSent_inv _, rfl, rfl, rfl, rfl, rfl⟩

/-- R141, R147: the first cell of a black pixel that is being sent is 1111 0000 0000. -/
theorem test_line_first_cell : (List.range 12).map (lineBit sReady)
    = ([true, true, true, true, false, false, false, false, false, false, false, false].map some) := by decide

/-- R235: a store after the last bus access does not keep the host program from ending, and a held access does. -/
theorem test_end_of_program : programEnded { s0 with hostProg := [.store 0x3000 7] } = true
    ∧ programEnded { s0 with hostNow := some ⟨.write, 0, 4, 0xA⟩ } = false := by decide

/-! ### Witness of a weakly fair run that does not fault: every agent takes a turn in each round of five -/

/-- P in BACK, which is ready, and the host waiting in a second SET (P3 step 3). -/
def sHeld : State := { sReady with hostNow := some ⟨.write, 0, 4, 0xA⟩ }

def roundRobin (k : Nat) : Turn :=
  match k % 5 with
  | 0 => .txdma
  | 1 => .ctrl
  | 2 => .cpydma
  | 3 => .ctrl
  | _ => .host

/-- The next state, or the same state where the step stops. -/
def nextOr (t : Turn) (s : State) : State :=
  match agentStep t s with
  | .next u => u
  | _ => s

def rounds (s : State) : Nat → State
  | 0 => s
  | k + 1 => nextOr (roundRobin k) (rounds s k)

/-- Started, fault-free, and the host idle or waiting in a SET that can be performed. -/
structure Calm (s : State) : Prop where
  fault : s.fault = none
  started : s.started = true
  prog : s.hostProg = []
  now : s.hostNow = none ∨ s.hostNow = some ⟨.write, 0, 4, 0xA⟩
  count : s.frameCount.toNat = s.cfg.n
  readable : memReadable s.cfg s.frameAddr.toNat (3 * s.cfg.n) = true

/-- The events and the copy at each place of the round. -/
def Phase (k : Nat) (s : State) : Prop :=
  match k % 5 with
  | 0 => s.txcPending = none ∧ s.cpcPending = false ∧ s.copy = none
  | 1 => s.cpcPending = false ∧ s.copy = none
  | 2 => s.txcPending = none ∧ s.cpcPending = false
  | 3 => s.txcPending = none ∧ s.copy = none
  | _ => s.txcPending = none ∧ s.cpcPending = false ∧ s.copy = none

theorem txDone_calm (s : State) (hs : Calm s) (h : s.txcPending = none) (hc : s.copy = none) :
    Calm (txDone s) ∧ (txDone s).cpcPending = s.cpcPending ∧ (txDone s).copy = none := by
  have e : txDone s = { s with
      wire := s.wire ++ [s.buf (.front s.txIdx)], txcPending := some s.txIdx, txIdx := s.txIdx.other } := by
    simp [txDone, txDoneEnabled, hs.started, hs.fault, h, hc]
  rw [e]
  exact ⟨⟨hs.fault, hs.started, hs.prog, hs.now, hs.count, hs.readable⟩, rfl, hc⟩

theorem copyDone_calm (s : State) (hs : Calm s) :
    Calm (copyDone s) ∧ (copyDone s).txcPending = s.txcPending ∧ (copyDone s).copy = none := by
  rcases copyDone_cases s with h | ⟨k, _, _, h⟩
  · refine ⟨by rw [h]; exact hs, by rw [h], ?_⟩
    cases hc : s.copy with
    | none => rw [h, hc]
    | some k => simp [copyDone, hs.fault, hc]
  · rw [h]
    exact ⟨⟨by simp [hs.fault], by simp [hs.started], by simp [hs.prog], by simpa using hs.now, by simpa using hs.count,
      by simpa using hs.readable⟩, by simp, by simp⟩

theorem ctrl_cpc_calm (s : State) (hs : Calm s) (h : s.txcPending = none) :
    Calm (ctrlStep s) ∧ (ctrlStep s).txcPending = none ∧ (ctrlStep s).cpcPending = false
      ∧ (ctrlStep s).copy = s.copy := by
  rcases ctrlStep_cases s with e | ⟨_, _, e⟩ | ⟨i, _, _, hi, _⟩
  · refine ⟨by rw [e]; exact hs, by rw [e, h], ?_, by rw [e]⟩
    cases hc : s.cpcPending with
    | false => rw [e, hc]
    | true => simp [ctrlStep, hs.fault, hc, cpcHandler]
  · rw [e]
    exact ⟨⟨hs.fault, hs.started, hs.prog, hs.now, hs.count, hs.readable⟩, h, rfl, rfl⟩
  · rw [h] at hi; cases hi

theorem ctrl_txc_calm (s : State) (hs : Calm s) (hc : s.cpcPending = false) (hk : s.copy = none) :
    Calm (ctrlStep s) ∧ (ctrlStep s).txcPending = none ∧ (ctrlStep s).cpcPending = false := by
  cases hp : s.txcPending with
  | none =>
    obtain ⟨a, b, c, _⟩ := ctrl_cpc_calm s hs hp
    exact ⟨a, b, c⟩
  | some i =>
    have e : ctrlStep s = txcHandler i s := by simp [ctrlStep, hs.fault, hc, hp]
    rw [e]
    rcases txcHandler_cases i s with ⟨k, h, _⟩ | ⟨_, _, h⟩ | ⟨_, _, _, h⟩ | ⟨_, _, h⟩
    · rw [hk] at h; cases h
    all_goals
      rw [h]
      exact ⟨⟨by simp [hs.fault], by simp [hs.started], by simp [hs.prog], by simpa using hs.now, by simpa using hs.count,
        by simpa using hs.readable⟩, by simp, by simp [hc]⟩

theorem host_calm (s : State) (hs : Calm s) : ∃ t, hostStep s = .next t ∧ Calm t ∧ t.txcPending = s.txcPending
    ∧ t.cpcPending = s.cpcPending ∧ t.copy = s.copy := by
  rcases hs.now with hn | hn
  · exact ⟨s, by simp [hostStep, hn, hs.prog], hs, rfl, rfl, rfl⟩
  · have e : hostStep s = .next (setBody { s with hostNow := none }) := by
      rw [hostStep, hn]
      show execSet _ = _
      exact command_run _ _ _ (show ({ s with hostNow := none } : State).fault = none from hs.fault)
    refine ⟨_, e, ?_⟩
    have hc := hs.count
    have hr := hs.readable
    rcases setBody_cases { s with hostNow := none } with ⟨h, _⟩ | ⟨_, _, h⟩ | ⟨_, _, _, h⟩
    · exact absurd hc h
    · rw [h]
      exact ⟨⟨hs.fault, hs.started, hs.prog, .inr rfl, hc, hr⟩, rfl, rfl, rfl⟩
    · rw [h]
      exact ⟨⟨hs.fault, hs.started, hs.prog, .inl rfl, hc, hr⟩, rfl, rfl, rfl⟩

theorem round_step (k : Nat) (s : State) (hs : Calm s) (hp : Phase k s) :
    ∃ t, agentStep (roundRobin k) s = .next t ∧ Calm t ∧ Phase (k + 1) t := by
  have hk : k % 5 = 0 ∨ k % 5 = 1 ∨ k % 5 = 2 ∨ k % 5 = 3 ∨ k % 5 = 4 := by omega
  rcases hk with h | h | h | h | h
  · have h' : (k + 1) % 5 = 1 := by omega
    simp only [Phase, roundRobin, h, h', agentStep] at hp ⊢
    obtain ⟨a, b, c⟩ := txDone_calm s hs hp.1 hp.2.2
    exact ⟨_, rfl, a, b.trans hp.2.1, c⟩
  · have h' : (k + 1) % 5 = 2 := by omega
    simp only [Phase, roundRobin, h, h', agentStep] at hp ⊢
    exact ⟨_, rfl, ctrl_txc_calm s hs hp.1 hp.2⟩
  · have h' : (k + 1) % 5 = 3 := by omega
    simp only [Phase, roundRobin, h, h', agentStep] at hp ⊢
    obtain ⟨a, b, c⟩ := copyDone_calm s hs
    exact ⟨_, rfl, a, b.trans hp.1, c⟩
  · have h' : (k + 1) % 5 = 4 := by omega
    simp only [Phase, roundRobin, h, h', agentStep] at hp ⊢
    obtain ⟨a, b, c, d⟩ := ctrl_cpc_calm s hs hp.1
    exact ⟨_, rfl, a, b, c, d.trans hp.2⟩
  · have h' : (k + 1) % 5 = 0 := by omega
    simp only [Phase, roundRobin, h, h', agentStep] at hp ⊢
    obtain ⟨t, e, a, b, c, d⟩ := host_calm s hs
    exact ⟨t, e, a, b.trans hp.1, c.trans hp.2.1, d.trans hp.2.2⟩

theorem rounds_calm (k : Nat) : Calm (rounds sHeld k) ∧ Phase k (rounds sHeld k) := by
  induction k with
  | zero => exact ⟨⟨rfl, rfl, rfl, .inr rfl, by decide, by decide⟩, rfl, rfl, rfl⟩
  | succ k ih =>
    obtain ⟨t, e, h⟩ := round_step k _ ih.1 ih.2
    rw [rounds, nextOr, e]
    exact h

theorem roundRobin_fair (t : Turn) (i : Nat) (hi : ∀ k, roundRobin (5 * k + i) = t) (en : State → Bool) (r : Nat → State) :
    WeaklyFair t en roundRobin r := fun k _ => ⟨5 * k + i, by omega, hi k⟩

theorem sHeld_continuation : Continuation sHeld roundRobin (rounds sHeld) := by
  refine ⟨rfl, fun k => ?_, ?_, ?_, ?_⟩
  · obtain ⟨t, e, _⟩ := round_step k _ (rounds_calm k).1 (rounds_calm k).2
    rw [rounds, nextOr, e]
  · exact roundRobin_fair .txdma 0 (fun k => by simp [roundRobin]) _ _
  · exact roundRobin_fair .cpydma 2 (fun k => by simp [roundRobin, Nat.add_mod]) _ _
  · exact roundRobin_fair .ctrl 1 (fun k => by simp [roundRobin, Nat.add_mod]) _ _

theorem sHeld_faultFree : FaultFree (rounds sHeld) := fun k => (rounds_calm k).1.fault

theorem sHeld_inv : Inv sHeld :=
  ⟨witness_ResetHasInv, sq_memory_wf, buffers_encode _ rfl (.inl rfl) (.inr rfl) (.inr rfl),
    by simp [sHeld, sReady, s0, State.resetOf], rfl, by simp [sHeld, sReady, s0, State.resetOf], by simp [sHeld, sReady],
    by simp [sHeld, sReady, s0, State.resetOf], by simp [sHeld, sReady], by simp [sHeld, sReady]⟩

theorem witness_HeldSetCompletes_fair : Inv sHeld ∧ sHeld.started = true ∧ sHeld.backState ≠ .free
    ∧ Continuation sHeld roundRobin (rounds sHeld) ∧ FaultFree (rounds sHeld) ∧ sHeld.hostNow = some ⟨.write, 0, 4, 0xA⟩
    ∧ sHeld.frameCount.toNat = sHeld.cfg.n ∧ memReadable sHeld.cfg sHeld.frameAddr.toNat (3 * sHeld.cfg.n) = true
    ∧ WeaklyFair .host (fun u => !setHolds u) roundRobin (rounds sHeld) :=
  ⟨sHeld_inv, rfl, by decide, sHeld_continuation, sHeld_faultFree, rfl, by decide, by decide,
    roundRobin_fair .host 4 (fun k => by simp [roundRobin, Nat.add_mod]) _ _⟩

theorem witness_SetFrameReachesWire_fair : Inv sHeld ∧ sHeld.started = true ∧ sHeld.backState = .readyToCopy
    ∧ Continuation sHeld roundRobin (rounds sHeld) ∧ FaultFree (rounds sHeld) :=
  ⟨sHeld_inv, rfl, rfl, sHeld_continuation, sHeld_faultFree⟩

end Sys2Proof.Tests
end

section
/-! The schedule (00_scope R13): O9. -/

namespace Sys2Proof.Machine

/-- Settles O9: `nextTurn` and `afterTurn` on a schedule with a turn left, and on one that is used up. -/
theorem stepRunsScheduledAgent : Obligations.StepRunsScheduledAgent := by
  intro s
  constructor
  · intro t ts hturns
    simp only [step, nextTurn, afterTurn, hturns]
  · intro hturns
    simp only [step, nextTurn, afterTurn, hturns]

end Sys2Proof.Machine
end

section
/-! What steps leave unchanged of the configuration and of system memory (00_scope R7, 20_memory R50, R52): O58. -/

namespace Sys2Proof.Machine

/-- `t` has the configuration and the system memory of `s`. -/
def KeepsCfgMem (s t : State) : Prop := t.cfg = s.cfg ∧ t.mem = s.mem

theorem KeepsCfgMem.trans {s t u : State} (h : KeepsCfgMem s t) (h' : KeepsCfgMem t u) : KeepsCfgMem s u :=
  ⟨h'.1.trans h.1, h'.2.trans h.2⟩

theorem keepsCfgMem_raise (c : Cause) (s : State) : KeepsCfgMem s (raise c s) := ⟨raise_cfg c s, raise_mem c s⟩

theorem keepsCfgMem_startBody (s : State) : KeepsCfgMem s (startBody s) := by
  unfold startBody
  split <;> exact ⟨rfl, rfl⟩

theorem keepsCfgMem_writeReg (off : BitVec 12) (d : Word) (s : State) : KeepsCfgMem s (writeReg off d s) := by
  rcases writeReg_cases off d s with h | h | h | h | h | h | h | h <;> rw [h] <;> exact ⟨rfl, rfl⟩

theorem BodyEffect.keepsCfgMem {s t : State} (h : BodyEffect s t) : KeepsCfgMem s t := by
  cases h with
  | result v => exact ⟨rfl, rfl⟩
  | fault c => exact keepsCfgMem_raise c s
  | start => exact keepsCfgMem_startBody s
  | waits w => exact ⟨rfl, rfl⟩
  | frame _ _ _ => exact ⟨rfl, rfl⟩

/-- No instruction writes the configuration or system memory (R50). -/
theorem ExecEffect.keepsCfgMem {s t : State} (h : ExecEffect s t) : KeepsCfgMem s t := by
  cases h with
  | waits a => exact ⟨rfl, rfl⟩
  | body _ _ hbody => exact hbody.keepsCfgMem
  | wrote off d => exact keepsCfgMem_writeReg off d s
  | read off => exact ⟨rfl, rfl⟩

theorem keepsCfgMem_txDone (s : State) : KeepsCfgMem s (txDone s) := by
  rcases txDone_cases s with h | ⟨c, h⟩ | ⟨_, _, _, _, h⟩ <;> rw [h]
  · exact ⟨rfl, rfl⟩
  · exact keepsCfgMem_raise c s
  · exact ⟨rfl, rfl⟩

theorem keepsCfgMem_copyDone (s : State) : KeepsCfgMem s (copyDone s) := by
  rcases copyDone_cases s with h | ⟨k, _, _, h⟩ <;> rw [h]
  · exact ⟨rfl, rfl⟩
  · simp [KeepsCfgMem]

theorem keepsCfgMem_dmaErr (s : State) : KeepsCfgMem s (dmaErr s) := by
  rcases dmaErr_cases s with h | ⟨_, h⟩ <;> rw [h]
  · exact ⟨rfl, rfl⟩
  · exact keepsCfgMem_raise _ s

theorem keepsCfgMem_txcHandler (i : Front) (s : State) : KeepsCfgMem s (txcHandler i s) := by
  rcases txcHandler_cases i s with ⟨_, _, h⟩ | ⟨_, _, h⟩ | ⟨_, _, _, h⟩ | ⟨_, _, h⟩ <;> rw [h]
  · exact keepsCfgMem_raise _ s
  · simp [KeepsCfgMem]
  · simp [KeepsCfgMem]
  · exact ⟨rfl, rfl⟩

theorem keepsCfgMem_ctrlStep (s : State) : KeepsCfgMem s (ctrlStep s) := by
  rcases ctrlStep_cases s with h | ⟨_, _, h⟩ | ⟨i, _, _, _, h⟩ <;> rw [h]
  · exact ⟨rfl, rfl⟩
  · exact ⟨rfl, rfl⟩
  · exact keepsCfgMem_txcHandler i s

/-- A step of HOST keeps the configuration, and keeps memory unless it is the host's own store (R52). -/
theorem hostStep_keepsCfgMem_or_stores {s t : State} (h : hostStep s = .next t) :
    KeepsCfgMem s t ∨ ∃ addr v rest, s.hostNow = none ∧ s.hostProg = .store addr v :: rest ∧ t.cfg = s.cfg
      ∧ t.mem = writeByte s.mem addr.toNat v := by
  rcases hostStep_effect s t h with ⟨prog, now, rfl⟩ | ⟨addr, v, rest, hnow, hprog, _, rfl⟩ | ⟨prog, heff⟩
  · exact .inl ⟨rfl, rfl⟩
  · exact .inr ⟨addr, v, rest, hnow, hprog, rfl, rfl⟩
  · exact .inl heff.keepsCfgMem

/-- A step keeps the configuration, and keeps memory unless it is the host's own store (R52). -/
theorem step_keepsCfgMem_or_stores {s t : State} (h : step s = .next t) :
    KeepsCfgMem s t ∨ ∃ addr v rest, nextTurn s = .host ∧ s.hostNow = none ∧ s.hostProg = .store addr v :: rest
      ∧ t.cfg = s.cfg ∧ t.mem = writeByte s.mem addr.toNat v := by
  obtain ⟨ts, k, hafter⟩ := afterTurn_eq s
  have hsched : KeepsCfgMem s (afterTurn s) := by rw [hafter]; exact ⟨rfl, rfl⟩
  rcases step_effect s t h with ⟨hturn, hhost⟩ | ⟨_, rfl⟩ | ⟨_, rfl⟩ | ⟨_, rfl⟩ | ⟨_, rfl⟩
  · rcases hostStep_keepsCfgMem_or_stores hhost with hkeep | ⟨addr, v, rest, hnow, hprog, hcfg, hmem⟩
    · exact .inl (hsched.trans hkeep)
    · rw [hafter] at hnow hprog hcfg hmem
      exact .inr ⟨addr, v, rest, hturn, hnow, hprog, hcfg, hmem⟩
  · exact .inl (hsched.trans (keepsCfgMem_ctrlStep _))
  · exact .inl (hsched.trans (keepsCfgMem_txDone _))
  · exact .inl (hsched.trans (keepsCfgMem_copyDone _))
  · exact .inl (hsched.trans (keepsCfgMem_dmaErr _))

/-- Settles O58: only the host's own store writes memory, and there `readByte_writeByte` says which byte. -/
theorem onlyHostStoresWriteMemory : Obligations.OnlyHostStoresWriteMemory := by
  intro s t hwf hstep
  rcases step_keepsCfgMem_or_stores hstep with ⟨hcfg, hmem⟩ | ⟨addr, v, rest, hturn, hnow, hprog, hcfg, hmem⟩
  · exact ⟨hcfg, .inl fun a => by rw [hmem]⟩
  · refine ⟨hcfg, .inr ⟨addr, v, rest, hturn, hnow, hprog, fun a => ?_⟩⟩
    rw [hmem, readByte_writeByte s.mem addr.toNat a v hwf]

end Sys2Proof.Machine
end

section
/-! Booting a configuration (00_scope R7, R9): what `Cfg.gapBytes` keeps of the two reals decides R9: O12. -/

namespace Sys2Proof

/-- R9 read in whole bytes: a tail of `n` bytes outlasts T_RESET exactly when `n` is above the whole part of
T_RESET · SPI_HZ / 8. -/
theorem floor_gap_lt_iff (tReset spiHz : PosReal) (n : Nat) :
    ⌊tReset.val * spiHz.val / 8⌋₊ < n ↔ tReset.val < n * 8 / spiHz.val := by
  have hgap : 0 ≤ tReset.val * spiHz.val / 8 := by
    have := tReset.2; have := spiHz.2; positivity
  rw [Nat.floor_lt hgap, div_lt_iff₀ (by norm_num), lt_div_iff₀ spiHz.2]

/-- `Cfg.wf` is R9 of every configuration that the `Cfg` holds. -/
theorem Params.Describes.wf_iff {p : Params} {c : Cfg} (h : p.Describes c) : c.wf = true ↔ p.WellFormed := by
  obtain ⟨hn, hreset, hgap, -⟩ := h
  rw [Sys2Proof.wf_iff, Params.WellFormed, hn, hreset, hgap, floor_gap_lt_iff]

/-- The `Cfg` that holds a configuration. -/
noncomputable def Params.toCfg (p : Params) : Cfg where
  n := p.n
  resetBytes := p.resetBytes
  gapBytes := ⌊p.tReset.val * p.spiHz.val / 8⌋₊
  power := p.power
  log := p.log
  basePage := p.basePage
  memRegions := p.memRegions
  dmaMayFail := p.dmaMayFail

theorem Params.describes_iff (p : Params) (c : Cfg) : p.Describes c ↔ c = p.toCfg := by
  cases c
  simp only [Params.Describes, Params.toCfg, Cfg.mk.injEq]

/-- A configuration that a `Cfg` holds: at a clock of one byte a second, T_RESET lies inside the second after
`gapBytes`. -/
noncomputable def Cfg.toParams (c : Cfg) : Params where
  n := c.n
  resetBytes := c.resetBytes
  spiHz := ⟨8, by norm_num⟩
  tReset := ⟨c.gapBytes + 1 / 2, by positivity⟩
  power := c.power
  log := c.log
  basePage := c.basePage
  memRegions := c.memRegions
  dmaMayFail := c.dmaMayFail

theorem Cfg.toParams_describes (c : Cfg) : c.toParams.Describes c := by
  have hgap : c.gapBytes = ⌊((c.gapBytes : ℝ) + 1 / 2) * 8 / 8⌋₊ := by
    rw [mul_div_cancel_right₀ _ (by norm_num), eq_comm, Nat.floor_eq_iff (by positivity)]
    constructor <;> linarith
  exact ⟨rfl, rfl, hgap, rfl, rfl, rfl, rfl, rfl⟩

end Sys2Proof

namespace Sys2Proof.Machine

theorem boot_of_wf {c : Cfg} (h : c.wf = true) : boot c = .next (State.resetOf c) := if_pos h

theorem boot_of_not_wf {c : Cfg} (h : ¬ c.wf = true) : boot c = .refused .illFormedConfig := if_neg h

/-- Settles O12: `boot` tests `Cfg.wf`, which is R9 of the configuration held. -/
theorem bootRefusesIllFormed : Obligations.BootRefusesIllFormed := by
  refine ⟨fun p c hdesc => ⟨fun hwf => ?_, fun hill => ?_⟩, fun p => ?_, fun c => ?_⟩
  · exact boot_of_wf (hdesc.wf_iff.mpr hwf)
  · exact boot_of_not_wf fun hwf => hill (hdesc.wf_iff.mp hwf)
  · exact ⟨p.toCfg, (p.describes_iff _).mpr rfl, fun c' => (p.describes_iff c').mp⟩
  · exact ⟨c.toParams, c.toParams_describes⟩

end Sys2Proof.Machine
end

section
/-! The layout of an encoded frame (42_encoder R144 to R146): O35. -/

namespace Sys2Proof.Machine

/-- The bits that every encoded byte at position `k` of a pixel has, whatever the colour (R142): byte 0 of a pair of source
bits is 1111 xxxx, byte 1 is 0000 1111, byte 2 is yyyy 0000. -/
def SkeletonByte (k : Nat) (b : Byte) : Prop :=
  (k % 3 = 0 → b.extractLsb' 4 4 = 0xF ∧ (b.extractLsb' 0 4 = 0x0 ∨ b.extractLsb' 0 4 = 0xF)) ∧
  (k % 3 = 1 → b = 0x0F) ∧
  (k % 3 = 2 → b.extractLsb' 0 4 = 0x0 ∧ (b.extractLsb' 4 4 = 0x0 ∨ b.extractLsb' 4 4 = 0xF))

/-- A whole number of encoded pairs: every byte has the bits of its position. -/
def HasSkeleton (l : List Byte) : Prop := l.length % 3 = 0 ∧ ∀ k b, l[k]? = some b → SkeletonByte k b

theorem HasSkeleton.nil : HasSkeleton [] := ⟨rfl, fun k b h => by simp at h⟩

theorem HasSkeleton.append {l m : List Byte} (hl : HasSkeleton l) (hm : HasSkeleton m) : HasSkeleton (l ++ m) := by
  obtain ⟨hlen, hbytes⟩ := hl
  obtain ⟨hlen', hbytes'⟩ := hm
  refine ⟨by rw [List.length_append]; omega, fun k b hk => ?_⟩
  rcases lt_or_ge k l.length with hlt | hge
  · rw [List.getElem?_append_left hlt] at hk
    exact hbytes k b hk
  · rw [List.getElem?_append_right hge] at hk
    have hmod : (k - l.length) % 3 = k % 3 := by omega
    have hbyte := hbytes' _ b hk
    unfold SkeletonByte at hbyte ⊢
    rwa [hmod] at hbyte

theorem hasSkeleton_pair (x y : Bool) : HasSkeleton (pair x y) := by
  refine ⟨Nat.mod_self 3, fun k b hk => ?_⟩
  match k, hk with
  | 0, hk => cases hk; cases x <;> simp [SkeletonByte, nibble]
  | 1, hk => cases hk; simp [SkeletonByte]
  | 2, hk => cases hk; cases y <;> simp [SkeletonByte, nibble]

theorem hasSkeleton_encChannel (c : Byte) : HasSkeleton (encChannel c) :=
  (((hasSkeleton_pair _ _).append (hasSkeleton_pair _ _)).append (hasSkeleton_pair _ _)).append (hasSkeleton_pair _ _)

theorem hasSkeleton_encPixel (p : Triple) : HasSkeleton (encPixel p) :=
  ((hasSkeleton_encChannel _).append (hasSkeleton_encChannel _)).append (hasSkeleton_encChannel _)

theorem hasSkeleton_flatMap_encPixel (ps : List Triple) : HasSkeleton (ps.flatMap encPixel) := by
  induction ps with
  | nil => exact .nil
  | cons p ps ih => exact (hasSkeleton_encPixel p).append ih

theorem encFrame_cons (c : Cfg) (p : Triple) (ps : List Triple) : encFrame c (p :: ps) = encPixel p ++ encFrame c ps := by
  simp only [encFrame, List.flatMap_cons, List.append_assoc]

/-- Pixel `i` stands at offset 36 · i (R144, R145). -/
theorem encFrame_pixel (c : Cfg) (ps : List Triple) (i : Nat) (h : i < ps.length) :
    ((encFrame c ps).drop (36 * i)).take 36 = encPixel ps[i] := by
  induction ps generalizing i with
  | nil => cases h
  | cons p ps ih =>
    rw [encFrame_cons]
    cases i with
    | zero => exact List.take_left' (encPixel_length p)
    | succ i =>
      have hoff : 36 * (i + 1) = (encPixel p).length + 36 * i := by rw [encPixel_length]; omega
      rw [hoff, List.drop_length_add_append]
      exact ih i (Nat.lt_of_succ_lt_succ h)

/-- After the pixels come the zero bytes (R145). -/
theorem encFrame_tail (c : Cfg) (ps : List Triple) :
    (encFrame c ps).drop (36 * ps.length) = List.replicate c.resetBytes 0 :=
  List.drop_left' (flatMap_encPixel_length ps)

theorem encFrame_getElem?_data (c : Cfg) (ps : List Triple) (k : Nat) (h : k < 36 * ps.length) :
    (encFrame c ps)[k]? = (ps.flatMap encPixel)[k]? :=
  List.getElem?_append_left (by rwa [flatMap_encPixel_length])

/-- Settles O35: the pixels by induction on the frame, the skeleton from that of one pair of source bits. -/
theorem encodedFrameLayout : Obligations.EncodedFrameLayout := by
  intro c ps hn
  refine ⟨?_, fun i h => encFrame_pixel c ps i h, ?_, fun k b hk hb => ?_⟩
  · rw [encFrame_length, hn, Cfg.frameLen]
  · rw [← hn, encFrame_tail]
  · rw [encFrame_getElem?_data c ps k (by rwa [hn])] at hb
    exact (hasSkeleton_flatMap_encPixel ps).2 k b hb

end Sys2Proof.Machine
end

section
/-! The conversions between RGB and HSV, channel by channel (41_color R100 to R102): O22. -/

namespace Sys2Proof.Machine

/-- The maximum channel of a colour (R100). -/
def maxChannel (p : Triple) : Nat := max p.c0.toNat (max p.c1.toNat p.c2.toNat)

/-- The minimum channel of a colour (R100). -/
def minChannel (p : Triple) : Nat := min p.c0.toNat (min p.c1.toNat p.c2.toNat)

theorem maxChannel_lt (p : Triple) : maxChannel p < 256 := by
  have := p.c0.isLt; have := p.c1.isLt; have := p.c2.isLt
  unfold maxChannel
  omega

theorem trunc8_toNat (v : Int) : ((trunc8 v).toNat : Int) = v % 256 := by
  rw [trunc8, BitVec.toNat_ofInt]
  omega

theorem satOf_lt (mx mn : Nat) : satOf mx mn < 256 := by
  have hle : 255 * (mx - mn) / mx ≤ 255 :=
    Nat.div_le_of_le_mul (by rw [Nat.mul_comm mx]; exact Nat.mul_le_mul_left 255 (Nat.sub_le mx mn))
  unfold satOf
  omega

theorem toNat_ofNat_byte {n : Nat} (h : n < 256) : (BitVec.ofNat 8 n).toNat = n := by
  rw [BitVec.toNat_ofNat, Nat.mod_eq_of_lt h]

/-- Everything `rgbToHsv` can answer (R100): black, gray, or a colour with a hue. -/
theorem rgbToHsv_cases (p : Triple) :
    (maxChannel p = 0 ∧ rgbToHsv p = ⟨0, 0, 0⟩)
      ∨ (maxChannel p ≠ 0 ∧ satOf (maxChannel p) (minChannel p) = 0 ∧ rgbToHsv p = ⟨0, 0, BitVec.ofNat 8 (maxChannel p)⟩)
      ∨ (maxChannel p ≠ 0 ∧ satOf (maxChannel p) (minChannel p) ≠ 0 ∧ rgbToHsv p =
          ⟨trunc8 (hueOf p.c0.toNat p.c1.toNat p.c2.toNat (maxChannel p) (minChannel p)),
            BitVec.ofNat 8 (satOf (maxChannel p) (minChannel p)), BitVec.ofNat 8 (maxChannel p)⟩) := by
  by_cases hmax : maxChannel p = 0
  · exact .inl ⟨hmax, if_pos hmax⟩
  · by_cases hsat : satOf (maxChannel p) (minChannel p) = 0
    · exact .inr (.inl ⟨hmax, hsat, (if_neg hmax).trans (if_pos hsat)⟩)
    · exact .inr (.inr ⟨hmax, hsat, (if_neg hmax).trans (if_neg hsat)⟩)

/-- The value is the maximum channel (R100). -/
theorem rgbToHsv_value (p : Triple) : (rgbToHsv p).c2.toNat = maxChannel p := by
  rcases rgbToHsv_cases p with ⟨hmax, h⟩ | ⟨_, _, h⟩ | ⟨_, _, h⟩ <;> rw [h]
  · exact hmax.symm
  · exact toNat_ofNat_byte (maxChannel_lt p)
  · exact toNat_ofNat_byte (maxChannel_lt p)

/-- The saturation of a colour that is not black (R100). -/
theorem rgbToHsv_saturation (p : Triple) (hmax : maxChannel p ≠ 0) :
    (rgbToHsv p).c1.toNat = satOf (maxChannel p) (minChannel p) := by
  rcases rgbToHsv_cases p with ⟨hblack, _⟩ | ⟨_, hsat, h⟩ | ⟨_, _, h⟩
  · exact absurd hblack hmax
  · rw [h, hsat]; rfl
  · rw [h]; exact toNat_ofNat_byte (satOf_lt _ _)

theorem rgbToHsv_black (p : Triple) (hmax : maxChannel p = 0) : rgbToHsv p = ⟨0, 0, 0⟩ := if_pos hmax

/-- A colour with no saturation has hue 0 (R100). -/
theorem rgbToHsv_hue_of_gray (p : Triple) (hgray : (rgbToHsv p).c1 = 0) : (rgbToHsv p).c0 = 0 := by
  rcases rgbToHsv_cases p with ⟨_, h⟩ | ⟨_, _, h⟩ | ⟨hmax, hsat, _⟩
  · rw [h]
  · rw [h]
  · refine absurd ?_ hsat
    rw [← rgbToHsv_saturation p hmax, hgray]
    rfl

/-- The hue of a colour with some saturation (R100). -/
theorem rgbToHsv_hue (p : Triple) (hsat : (rgbToHsv p).c1 ≠ 0) :
    ((rgbToHsv p).c0.toNat : Int) =
      hueOf p.c0.toNat p.c1.toNat p.c2.toNat (maxChannel p) (minChannel p) % 256 := by
  rcases rgbToHsv_cases p with ⟨_, h⟩ | ⟨_, _, h⟩ | ⟨_, _, h⟩ <;> rw [h] at hsat ⊢
  · exact absurd rfl hsat
  · exact absurd rfl hsat
  · exact trunc8_toNat _

theorem hueOf_red {r g b mx mn : Nat} (hred : mx = r) :
    hueOf r g b mx mn = Int.tdiv (43 * ((g : Int) - b)) ((mx : Int) - mn) := by
  rw [hueOf, if_pos hred, zero_add, tdiv]

theorem hueOf_green {r g b mx mn : Nat} (hred : mx ≠ r) (hgreen : mx = g) :
    hueOf r g b mx mn = 85 + Int.tdiv (43 * ((b : Int) - r)) ((mx : Int) - mn) := by
  rw [hueOf, if_neg hred, if_pos hgreen, tdiv]

theorem hueOf_blue {r g b mx mn : Nat} (hred : mx ≠ r) (hgreen : mx ≠ g) :
    hueOf r g b mx mn = 171 + Int.tdiv (43 * ((r : Int) - g)) ((mx : Int) - mn) := by
  rw [hueOf, if_neg hred, if_neg hgreen, tdiv]

/-- Settles O22: value, saturation and hue of `rgbToHsv`, the hue by the sector of the maximum channel. -/
theorem rgbToHsvFormula : Obligations.RgbToHsvFormula := by
  intro p r g b mx mn q
  refine ⟨rgbToHsv_value p, fun hmax => ?_, rgbToHsv_saturation p, rgbToHsv_hue_of_gray p, fun hsat => ?_⟩
  · rw [show q = ⟨0, 0, 0⟩ from rgbToHsv_black p hmax]
    exact ⟨rfl, rfl⟩
  · have hhue : (q.c0.toNat : ℤ) = hueOf r g b mx mn % 256 := rgbToHsv_hue p hsat
    refine ⟨fun hred => ?_, fun hred hgreen => ?_, fun hred hgreen => ?_⟩
    · rw [hhue, hueOf_red hred]
    · rw [hhue, hueOf_green hred hgreen]
    · rw [hhue, hueOf_blue hred hgreen]

end Sys2Proof.Machine
end

section
/-! A colour taken through HSV and the curves and back (00_scope R11, 41_color R102 to R105, R118, R119): O27. -/

namespace Sys2Proof.Machine

theorem scaled_le (v x : Nat) : scaled v x ≤ v := by
  have hle : v * (255 - x) ≤ v * 256 := Nat.mul_le_mul_left v (by omega)
  unfold scaled
  omega

/-- In every region one channel is the value, and none is above it (R102). -/
theorem hsvSector_max (h s v : Nat) :
    max (hsvSector h s v).1 (max (hsvSector h s v).2.1 (hsvSector h s v).2.2) = v := by
  simp only [hsvSector]
  split <;> simp [scaled_le]

/-- The maximum channel of `hsvToRgb` is the value (R102). -/
theorem maxChannel_hsvToRgb (p : Triple) : maxChannel (hsvToRgb p) = p.c2.toNat := by
  unfold hsvToRgb
  split
  · simp [maxChannel]
  · have hmax := hsvSector_max p.c0.toNat p.c1.toNat p.c2.toNat
    have hlt := p.c2.isLt
    simp only [maxChannel]
    rw [toNat_ofNat_byte, toNat_ofNat_byte, toNat_ofNat_byte, hmax] <;> omega

/-- At one hue and saturation, two values give two colours. -/
theorem hsvToRgb_value_inj {h s v w : Byte} (heq : hsvToRgb ⟨h, s, v⟩ = hsvToRgb ⟨h, s, w⟩) : v = w := by
  have hmax := congrArg maxChannel heq
  rw [maxChannel_hsvToRgb, maxChannel_hsvToRgb] at hmax
  exact BitVec.eq_of_toNat_eq hmax

@[simp] theorem trunc8_natCast_toNat (c : Byte) : trunc8 (c.toNat : Int) = c := by
  simp [trunc8]

@[simp] theorem blend1_zero (a b t : Nat) : blend1 a b 0 t = a := by
  simp [blend1, tdiv]

theorem blend1_self (a b t : Nat) (ht : 1 ≤ t) : blend1 a b t t = b := by
  rw [blend1, tdiv, Int.mul_tdiv_cancel _ (by omega)]
  omega

/-- Interpolation starts at the first triple (R116). -/
@[simp] theorem blendTriple_zero (a b : Triple) (t : Nat) : blendTriple a b 0 t = a := by
  simp [blendTriple]

/-- Interpolation ends at the second triple (R116). -/
theorem blendTriple_self (a b : Triple) (t : Nat) (ht : 1 ≤ t) : blendTriple a b t t = b := by
  simp [blendTriple, blend1_self _ _ t ht]

/-- The round trip through the curves leaves hue and saturation and takes the value through both tables (R104, R105). -/
theorem fromInterp_toInterp (c : Cfg) (x : Triple) :
    fromInterp c (toInterp c x) =
      hsvToRgb ⟨(rgbToHsv x).c0, (rgbToHsv x).c1, curve c.power (curve c.log (rgbToHsv x).c2)⟩ := rfl

/-- The curves can be left out exactly where they round-trip (R118). -/
theorem fromInterp_toInterp_eq_hsv_iff (c : Cfg) (x : Triple) :
    fromInterp c (toInterp c x) = hsvToRgb (rgbToHsv x) ↔ RoundTrip c (rgbToHsv x).c2 := by
  rw [fromInterp_toInterp]
  constructor
  · exact fun heq => hsvToRgb_value_inj heq
  · intro hround
    rw [show curve c.power (curve c.log (rgbToHsv x).c2) = (rgbToHsv x).c2 from hround]

/-- A colour that survives the round trip through the curves had its value kept: the maximum channel is the value on both
sides. -/
theorem roundTrip_of_fromInterp_toInterp_eq {c : Cfg} {x : Triple} (h : fromInterp c (toInterp c x) = x) :
    RoundTrip c (rgbToHsv x).c2 := by
  have hmax := congrArg maxChannel h
  rw [fromInterp_toInterp, maxChannel_hsvToRgb, ← rgbToHsv_value] at hmax
  exact BitVec.eq_of_toNat_eq hmax

/-- Settles O27: the ends of the interpolation are exact, and the value of a colour is its maximum channel. -/
theorem renderedEndpointNeedsRoundTrip : Obligations.RenderedEndpointNeedsRoundTrip := by
  intro c x q
  refine ⟨fun y t ht => ⟨?_, ?_⟩, fromInterp_toInterp c x, fromInterp_toInterp_eq_hsv_iff c x, fun hexact => ?_⟩
  · rw [renderPixel, blendTriple_zero]
  · rw [renderPixel, blendTriple_self _ _ t ht]
  · have hround := roundTrip_of_fromInterp_toInterp_eq hexact
    exact ⟨hround, ((fromInterp_toInterp_eq_hsv_iff c x).mpr hround).symm.trans hexact⟩

end Sys2Proof.Machine
end

section
/-! What each instruction does, instruction by instruction, and what it leaves unchanged (40_bus_access R90, R94): O47. -/

namespace Sys2Proof.Machine

/-- Everything each instruction can do when it answers a next state: it waits, or it has the effect of its own rules. A write
to offset 0 is not listed: it is the command that its data word selects (R70). -/
inductive InstrEffect (s : State) : Instr → State → Prop where
  | waits (i : Instr) : InstrEffect s i (hostWaits (encode i) s)
  | result (i : Instr) (v : Packed) : isColour i = true → InstrEffect s i (s.withResult v)
  | blendFault (c : Cause) : InstrEffect s .blend (raise c s)
  | start : s.fault = none → InstrEffect s .start (startBody s)
  | setFault (c : Cause) : InstrEffect s .set (raise c s)
  | frame : s.fault = none → setHolds s = false → InstrEffect s .set (setFrame (framePixels s) s)
  | illegal (w : Word) : InstrEffect s (.illegal w) (raise .illegalCmd s)
  | wrote (off : BitVec 12) (d : Word) : off ≠ 0 → InstrEffect s (.wr off d) (writeReg off d s)
  | read (off : BitVec 12) : InstrEffect s (.rd off) { s with readData := readReg off s }

theorem instrEffect_blendBody (s : State) : InstrEffect s .blend (blendBody s) := by
  rcases blendBody_cases s with ⟨_, h⟩ | ⟨_, _, h⟩ | ⟨_, _, v, h⟩ <;> rw [h]
  · exact .blendFault _
  · exact .blendFault _
  · exact .result _ v rfl

theorem instrEffect_setBody {s : State} (hfault : s.fault = none) : InstrEffect s .set (setBody s) := by
  rcases setBody_cases s with ⟨_, h⟩ | ⟨_, _, h⟩ | ⟨_, hholds, _, h⟩ <;> rw [h]
  · exact .setFault _
  · exact .waits .set
  · exact .frame hfault hholds

/-- A command waits, or has the effect of its body (R94). -/
theorem InstrEffect.of_command {i : Instr} {w : Word} {body : State → State} {s t : State} (hw : encode i = cmdAccess w)
    (h : command w body s = .next t) (hbody : s.fault = none → InstrEffect s i (body s)) : InstrEffect s i t := by
  rcases command_next w body s t h with ⟨hfault, rfl⟩ | ⟨_, rfl⟩
  · exact hbody hfault
  · rw [← hw]
    exact .waits i

/-- Everything `exec` can do, instruction by instruction. -/
theorem exec_instrEffect {i : Instr} {s t : State} (hi : ∀ d, i ≠ .wr 0 d) (h : exec i s = .next t) :
    InstrEffect s i t := by
  cases i with
  | rgb2hsv => exact .of_command rfl h fun _ => .result _ _ rfl
  | hsv2rgb => exact .of_command rfl h fun _ => .result _ _ rfl
  | powc => exact .of_command rfl h fun _ => .result _ _ rfl
  | logc => exact .of_command rfl h fun _ => .result _ _ rfl
  | toi => exact .of_command rfl h fun _ => .result _ _ rfl
  | fromi => exact .of_command rfl h fun _ => .result _ _ rfl
  | blend => exact .of_command rfl h fun _ => instrEffect_blendBody s
  | chbright => exact .of_command rfl h fun _ => .result _ _ rfl
  | start => exact .of_command rfl h .start
  | set => exact .of_command rfl h instrEffect_setBody
  | illegal w => exact .of_command rfl h fun _ => .illegal w
  | wr off d =>
    have h0 : off ≠ 0 := fun h0 => hi d (by rw [h0])
    simp only [exec, execWr, if_neg h0] at h
    split at h <;> cases h
    · exact .waits _
    · exact .wrote off d h0
  | rd off =>
    simp only [exec, execRd] at h
    split at h <;> cases h
    · exact .waits _
    · exact .read off

/-! ### What stays as it is -/

theorem SameDriver.refl (s : State) : SameDriver s s := by simp [SameDriver, SameEngines, SameBack, SameRing]

theorem sameDriver_raise (c : Cause) (s : State) : SameDriver s (raise c s) := by
  simp [SameDriver, SameEngines, SameBack, SameRing]

theorem sameDriver_writeReg (off : BitVec 12) (d : Word) (s : State) : SameDriver s (writeReg off d s) := by
  unfold writeReg; split <;> exact SameDriver.refl s

@[simp] theorem writeReg_result (off : BitVec 12) (d : Word) (s : State) : (writeReg off d s).result = s.result := by
  unfold writeReg; split <;> rfl

@[simp] theorem writeReg_fault (off : BitVec 12) (d : Word) (s : State) : (writeReg off d s).fault = s.fault := by
  unfold writeReg; split <;> rfl

@[simp] theorem writeReg_readData (off : BitVec 12) (d : Word) (s : State) :
    (writeReg off d s).readData = s.readData := by
  unfold writeReg; split <;> rfl

@[simp] theorem startBody_result (s : State) : (startBody s).result = s.result := by unfold startBody; split <;> rfl

@[simp] theorem startBody_fault (s : State) : (startBody s).fault = s.fault := by unfold startBody; split <;> rfl

theorem sameOperands_startBody (s : State) : SameOperands s (startBody s) ∧ (startBody s).readData = s.readData := by
  unfold startBody; split <;> simp [SameOperands]

theorem sameBack_startBody (s : State) : SameBack s (startBody s) := by
  unfold startBody; split <;> simp [SameBack]

/-- A write to an operand register writes nothing else, and one to another register no operand register (R90). -/
theorem writeReg_operands (off : BitVec 12) (d : Word) (s : State) :
    (off ≠ 0x08 → (writeReg off d s).opa = s.opa) ∧ (off ≠ 0x0C → (writeReg off d s).opb = s.opb) ∧
    (off ≠ 0x10 → (writeReg off d s).factor = s.factor) ∧ (off ≠ 0x14 → (writeReg off d s).elapsed = s.elapsed) ∧
    (off ≠ 0x18 → (writeReg off d s).total = s.total) ∧ (off ≠ 0x20 → (writeReg off d s).frameAddr = s.frameAddr) ∧
    (off ≠ 0x24 → (writeReg off d s).frameCount = s.frameCount) := by
  simp only [ne_eq, BitVec.toNat_eq]
  unfold writeReg
  split <;> simp [*]

/-- No instruction writes what the engines and handlers own, nor what surrounds the block. -/
theorem ExecEffect.sameEngines_sameSurroundings {s t : State} (h : ExecEffect s t) :
    SameEngines s t ∧ SameSurroundings s t := by
  cases h with
  | waits a => simp [SameEngines, SameSurroundings]
  | body _ _ hbody =>
    cases hbody with
    | result v => simp [SameEngines, SameSurroundings]
    | fault c => simp [SameEngines, SameSurroundings]
    | start => unfold startBody; split <;> simp [SameEngines, SameSurroundings]
    | waits w => simp [SameEngines, SameSurroundings]
    | frame _ _ _ => simp [SameEngines, SameSurroundings]
  | wrote off d =>
    rcases writeReg_cases off d s with h | h | h | h | h | h | h | h <;> rw [h] <;> simp [SameEngines, SameSurroundings]
  | read off => simp [SameEngines, SameSurroundings]

section
variable {i : Instr} {s t : State}

/-- Only START and SET write the driver state (R30, R161, R162). -/
theorem InstrEffect.sameDriver (h : InstrEffect s i t) (hstart : i ≠ .start) (hset : i ≠ .set) : SameDriver s t := by
  cases h with
  | waits => exact SameDriver.refl s
  | result => exact SameDriver.refl s
  | blendFault c => exact sameDriver_raise c s
  | start => exact absurd rfl hstart
  | setFault => exact absurd rfl hset
  | frame => exact absurd rfl hset
  | illegal w => exact sameDriver_raise _ s
  | wrote off d => exact sameDriver_writeReg off d s
  | read => exact SameDriver.refl s

/-- Only the colour commands write RESULT (R30). -/
theorem InstrEffect.result_eq (h : InstrEffect s i t) (hi : isColour i = false) : t.result = s.result := by
  cases h with
  | waits => rfl
  | result _ _ hcolour => rw [hcolour] at hi; cases hi
  | blendFault c => exact raise_result c s
  | start => exact startBody_result s
  | setFault c => exact raise_result c s
  | frame => rfl
  | illegal w => exact raise_result _ s
  | wrote off d => exact writeReg_result off d s
  | read => rfl

/-- Only BLEND, SET and the illegal words raise a fault (R191). -/
theorem InstrEffect.fault_eq (h : InstrEffect s i t) (hblend : i ≠ .blend) (hset : i ≠ .set)
    (hillegal : ∀ w, i ≠ .illegal w) : t.fault = s.fault := by
  cases h with
  | waits => rfl
  | result => rfl
  | blendFault => exact absurd rfl hblend
  | start => exact startBody_fault s
  | setFault => exact absurd rfl hset
  | frame => exact absurd rfl hset
  | illegal w => exact absurd rfl (hillegal w)
  | wrote off d => exact writeReg_fault off d s
  | read => rfl

/-- Commands leave the operand registers and the word last read. -/
theorem InstrEffect.sameOperands (h : InstrEffect s i t) (hi : isCommand i = true) :
    SameOperands s t ∧ t.readData = s.readData := by
  cases h with
  | waits => simp [SameOperands]
  | result => simp [SameOperands]
  | blendFault c => simp [SameOperands]
  | start => exact sameOperands_startBody s
  | setFault c => simp [SameOperands]
  | frame => simp [SameOperands]
  | illegal w => simp [SameOperands]
  | wrote => cases hi
  | read => cases hi

theorem InstrEffect.sameBack_of_start (h : InstrEffect s .start t) : SameBack s t := by
  cases h with
  | waits => simp [SameBack]
  | result _ _ hcolour => cases hcolour
  | start => exact sameBack_startBody s

theorem InstrEffect.sameRing_of_set (h : InstrEffect s .set t) : SameRing s t := by
  cases h with
  | waits => simp [SameRing]
  | result _ _ hcolour => cases hcolour
  | setFault c => simp [SameRing]
  | frame => simp [SameRing]

theorem InstrEffect.sameOperands_of_rd {off : BitVec 12} (h : InstrEffect s (.rd off) t) : SameOperands s t := by
  cases h with
  | waits => simp [SameOperands]
  | result _ _ hcolour => cases hcolour
  | read => simp [SameOperands]

/-- A write waits, or it is `writeReg`. -/
theorem InstrEffect.of_wr {off : BitVec 12} {d : Word} (h : InstrEffect s (.wr off d) t) :
    t = hostWaits (encode (.wr off d)) s ∨ t = writeReg off d s := by
  cases h with
  | waits => exact .inl rfl
  | result _ _ hcolour => cases hcolour
  | wrote => exact .inr rfl

end

/-- Settles O47: the frames of every instruction from `exec_effect`, those of each kind from `exec_instrEffect`. -/
theorem instructionFrame : Obligations.InstructionFrame := by
  intro i s t hexec
  have heff := exec_effect i s t hexec
  have hinstr (hi : ∀ d, i ≠ .wr 0 d) : InstrEffect s i t := exec_instrEffect hi hexec
  have hcommand (hi : isCommand i = true) : InstrEffect s i t := hinstr (by rintro d rfl; cases hi)
  refine ⟨heff.sameEngines_sameSurroundings.1, heff.sameEngines_sameSurroundings.2,
    fun a => by rw [heff.keepsCfgMem.2], fun hi => (hcommand hi).sameOperands hi, fun hi => ?_,
    fun hi => (hcommand hi).fault_eq, ?_, ?_, ?_, ?_, ?_⟩
  · exact (hinstr (by rintro d rfl; cases hi)).sameDriver (by rintro rfl; cases hi) (by rintro rfl; cases hi)
  · rintro ⟨w, rfl⟩
    exact ⟨(hcommand rfl).sameDriver nofun nofun, (hcommand rfl).result_eq rfl⟩
  · rintro rfl
    exact ⟨(hcommand rfl).sameBack_of_start, (hcommand rfl).result_eq rfl, (hcommand rfl).fault_eq nofun nofun nofun⟩
  · rintro rfl
    exact ⟨(hcommand rfl).sameRing_of_set, (hcommand rfl).result_eq rfl⟩
  · rintro off rfl
    have heff := hinstr nofun
    exact ⟨heff.sameDriver nofun nofun, heff.sameOperands_of_rd, heff.result_eq rfl, heff.fault_eq nofun nofun nofun⟩
  · rintro off d rfl h0
    have heff := hinstr fun d' hd => h0 (Instr.wr.inj hd).1
    refine ⟨heff.sameDriver nofun nofun, heff.result_eq rfl, heff.fault_eq nofun nofun nofun, ?_⟩
    rcases heff.of_wr with rfl | rfl
    · simp
    · exact ⟨writeReg_readData off d s, writeReg_operands off d s⟩

end Sys2Proof.Machine
end

section
/-! What a step does to the driver state (43_driver), said once: the facts about every step are derived from this. -/

namespace Sys2Proof.Machine

/-! ### Reading one field out of `SameDriver` -/

section
variable {s t : State}

theorem SameDriver.frontId0 : SameDriver s t → t.frontId0 = s.frontId0 := fun ⟨⟨_, _, h, _⟩, _⟩ => h
theorem SameDriver.frontId1 : SameDriver s t → t.frontId1 = s.frontId1 := fun ⟨⟨_, _, _, h, _⟩, _⟩ => h
theorem SameDriver.flipCount : SameDriver s t → t.flipCount = s.flipCount := fun ⟨⟨_, _, _, _, h, _⟩, _⟩ => h
theorem SameDriver.wire : SameDriver s t → t.wire = s.wire := fun ⟨⟨_, _, _, _, _, h, _⟩, _⟩ => h
theorem SameDriver.txcPending : SameDriver s t → t.txcPending = s.txcPending :=
  fun ⟨⟨_, _, _, _, _, _, h, _⟩, _⟩ => h
theorem SameDriver.cpcPending : SameDriver s t → t.cpcPending = s.cpcPending :=
  fun ⟨⟨_, _, _, _, _, _, _, h, _⟩, _⟩ => h
theorem SameDriver.copy : SameDriver s t → t.copy = s.copy := fun ⟨⟨_, _, _, _, _, _, _, _, h⟩, _⟩ => h
theorem SameDriver.bufBack : SameDriver s t → t.bufBack = s.bufBack := fun ⟨_, ⟨h, _⟩, _⟩ => h
theorem SameDriver.backId : SameDriver s t → t.backId = s.backId := fun ⟨_, ⟨_, h, _⟩, _⟩ => h
theorem SameDriver.setCount : SameDriver s t → t.setCount = s.setCount := fun ⟨_, ⟨_, _, h, _⟩, _⟩ => h
theorem SameDriver.backState : SameDriver s t → t.backState = s.backState := fun ⟨_, ⟨_, _, _, h⟩, _⟩ => h
theorem SameDriver.started : SameDriver s t → t.started = s.started := fun ⟨_, _, ⟨h, _⟩⟩ => h
theorem SameDriver.txIdx : SameDriver s t → t.txIdx = s.txIdx := fun ⟨_, _, ⟨_, h⟩⟩ => h

theorem SameDriver.buf : SameDriver s t → ∀ b, t.buf b = s.buf b :=
  fun ⟨⟨hfront0, hfront1, _⟩, ⟨hback, _⟩, _⟩ => buf_congr s t hback hfront0 hfront1

theorem SameDriver.frontId (h : SameDriver s t) (i : Front) : t.frontId i = s.frontId i := by
  cases i
  · exact h.frontId0
  · exact h.frontId1

end

/-! ### What the driver does, as named updates -/

/-- A state after the host has issued an access: only its own fields have moved. -/
def hostIssued (prog : List HostAct) (s : State) : State := { s with hostProg := prog, hostNow := none }

/-- The schedule after the turn is taken. -/
def scheduled (ts : List Turn) (k : Nat) (s : State) : State := { s with turns := ts, draws := k }

/-- What START writes when it begins the ring (R161). -/
def ringBegun (s : State) : State := { s with started := true, txIdx := .front0 }

/-- What TXDONE writes when it raises no fault (R168). -/
def bufferSent (s : State) : State :=
  { s with
    wire := s.wire ++ [s.buf (.front s.txIdx)]
    txcPending := some s.txIdx
    txIdx := s.txIdx.other }

/-- What the transmit-complete handler writes when it starts the copy `k` of the frame `id` (R170). -/
def copyBegun (k : Copy) (b : BackState) (id : Word) (s : State) : State :=
  txcEnd ({ s with copy := some k, backState := b }.setFrontId k.dst id)

/-- What COPYDONE writes at the end of the copy `k` (R172). -/
def copied (k : Copy) (s : State) : State := copyEnd (s.setBuf (.front k.dst) (s.buf k.src))

/-- After COPYDONE every buffer is, whole, one that was there before (R172). -/
theorem buf_copied (k : Copy) (s : State) (b : Buf) :
    (b = .front k.dst ∧ (copied k s).buf b = s.buf k.src) ∨ (b ≠ .front k.dst ∧ (copied k s).buf b = s.buf b) := by
  rw [copied, buf_copyEnd]
  by_cases hb : b = .front k.dst
  · rw [hb, buf_setBuf_self]; exact .inl ⟨rfl, rfl⟩
  · rw [buf_setBuf_ne s _ b _ hb]; exact .inr ⟨hb, rfl⟩

@[simp] theorem copied_bufBack (k : Copy) (s : State) : (copied k s).bufBack = s.bufBack := by
  obtain ⟨src, dst⟩ := k
  cases dst <;> rfl

@[simp] theorem buf_copyBegun (k : Copy) (b : BackState) (id : Word) (s : State) (x : Buf) :
    (copyBegun k b id s).buf x = s.buf x :=
  buf_congr s _ (by simp [copyBegun]) (by simp [copyBegun]) (by simp [copyBegun]) x

/-! ### The host -/

/-- A command word decodes to no write. -/
theorem decodeCommand_ne_wr (w : Word) (off : BitVec 12) (d : Word) : decodeCommand w ≠ .wr off d := by
  rw [decodeCommand_eq]
  split <;> nofun

/-- A write to CMD decodes to the command that its data word selects (R70). -/
theorem decodeAccess_ne_wr_cmd {a : Access} {i : Instr} (h : decodeAccess a = .ok i) (d : Word) : i ≠ .wr 0 d := by
  rintro rfl
  obtain ⟨dir, off, size, data⟩ := a
  cases dir with
  | read => simp [decodeAccess_mk, ite_eq_iff] at h
  | write =>
    by_cases h0 : off = 0
    · simp [decodeAccess_mk, ite_eq_iff, h0, decodeCommand_ne_wr] at h
    · simp only [decodeAccess_mk, h0, ite_eq_iff, if_false, reduceCtorEq, and_false, false_or, Except.ok.injEq,
        Instr.wr.injEq] at h
      obtain ⟨hin, -, -, hoff, -⟩ := h
      have hlt : off.toNat < 4096 := by simpa [BitVec.lt_def, Nat.lt_succ_iff] using hin
      have hmod := congrArg BitVec.toNat hoff
      rw [BitVec.toNat_setWidth, Nat.mod_eq_of_lt hlt] at hmod
      exact h0 (BitVec.eq_of_toNat_eq hmod)

/-- Everything an issued access can do: it leaves the host waiting, or it runs the instruction that it decodes to. -/
theorem issue_cases {a : Access} {s t : State} (h : issue a s = .next t) :
    t = hostWaits a s ∨ ∃ i, decodeAccess a = .ok i ∧ exec i { s with hostNow := none } = .next t := by
  unfold issue at h
  split at h
  · exact .inr ⟨_, ‹_›, h⟩
  · cases h
  · cases h; exact .inl rfl
  · cases h; exact .inl rfl

/-- Everything a step of HOST can do to the driver: it leaves it as it is, or it runs the instruction of its access. -/
theorem hostStep_cases {s t : State} (h : hostStep s = .next t) :
    SameDriver s t ∨ ∃ a i prog, hostAccess s = some a ∧ decodeAccess a = .ok i ∧ exec i (hostIssued prog s) = .next t := by
  unfold hostStep at h
  split at h
  · rename_i _ a hnow
    rcases issue_cases h with rfl | ⟨i, hi, hexec⟩
    · exact .inl (SameDriver.refl s)
    · exact .inr ⟨a, i, s.hostProg, by simp [hostAccess, hnow], hi, hexec⟩
  · cases h; exact .inl (SameDriver.refl s)
  · rename_i a prog hnow hprog
    rcases issue_cases h with rfl | ⟨i, hi, hexec⟩
    · exact .inl (SameDriver.refl s)
    · exact .inr ⟨a, i, prog, by simp [hostAccess, hnow, hprog], hi, hexec⟩
  · unfold hostStore at h
    split at h <;> cases h
    exact .inl (SameDriver.refl s)

/-- START writes the ring of a block that is not started, and nothing otherwise (R161). -/
theorem startBody_cases (s : State) :
    startBody s = s ∨ (s.started = false ∧ startBody s = ringBegun s) := by
  cases hstarted : s.started with
  | true => exact .inl (by simp [startBody, hstarted])
  | false => exact .inr ⟨rfl, by simp [startBody, hstarted, ringBegun]⟩

/-- Everything an instruction can do to the driver: nothing, START or a completed SET. -/
theorem InstrEffect.driver_cases {i : Instr} {s t : State} (h : InstrEffect s i t) :
    SameDriver s t
      ∨ (s.fault = none ∧ s.started = false ∧ t = ringBegun s)
      ∨ (i = .set ∧ s.fault = none ∧ setHolds s = false ∧ t = setFrame (framePixels s) s) := by
  cases h with
  | start hfault =>
    rcases startBody_cases s with h | ⟨hstarted, h⟩ <;> rw [h]
    · exact .inl (SameDriver.refl s)
    · exact .inr (.inl ⟨hfault, hstarted, rfl⟩)
  | frame hfault hholds => exact .inr (.inr ⟨rfl, hfault, hholds, rfl⟩)
  | setFault c => exact .inl (sameDriver_raise c s)
  | waits => exact .inl (SameDriver.refl s)
  | result => exact .inl (SameDriver.refl s)
  | blendFault c => exact .inl (sameDriver_raise c s)
  | illegal w => exact .inl (sameDriver_raise _ s)
  | wrote off d => exact .inl (sameDriver_writeReg off d s)
  | read => exact .inl (SameDriver.refl s)

/-! ### The step -/

/-- The transmit-complete handler runs for FRONT `i` (R169). -/
structure TxcTurn (s : State) (i : Front) : Prop where
  turn : nextTurn s = .ctrl
  noFault : s.fault = none
  noCopyEvent : s.cpcPending = false
  event : s.txcPending = some i

/-- Everything a step can do to the driver state: nothing; START (R161); a completed SET (R162); TXDONE (R168); COPYDONE
(R172); the copy-complete handler (R173); the transmit-complete handler with a copy from BACK, with a copy between the
front buffers, and without one (R170). -/
inductive DriverStep (s t : State) : Prop where
  | quiet : SameDriver s t → DriverStep s t
  | start : nextTurn s = .host → s.fault = none → s.started = false →
      SameDriver (ringBegun s) t → DriverStep s t
  | frame (a : Access) : nextTurn s = .host → hostAccess s = some a → decodeAccess a = .ok .set → s.fault = none →
      setHolds s = false → t.hostNow = none → SameDriver (setFrame (framePixels s) s) t → DriverStep s t
  | txDone : nextTurn s = .txdma → s.fault = none → s.started = true → s.txcPending = none → s.copy = none →
      SameDriver (bufferSent s) t → DriverStep s t
  | copyDone (k : Copy) : nextTurn s = .cpydma → s.fault = none → s.copy = some k →
      SameDriver (copied k s) t → DriverStep s t
  | copyComplete : nextTurn s = .ctrl → s.fault = none → s.cpcPending = true → SameDriver (cpcHandler s) t →
      DriverStep s t
  | copyFromBack (i : Front) : TxcTurn s i → s.backState = .readyToCopy → s.copy = none →
      SameDriver (copyBegun ⟨.back, i⟩ .copying s.backId s) t →
      DriverStep s t
  | copyFromFront (i : Front) : TxcTurn s i → s.backState ≠ .readyToCopy → s.frontId0 ≠ s.frontId1 → s.copy = none →
      SameDriver (copyBegun ⟨.front i.other, i⟩ s.backState (s.frontId i.other) s) t →
      DriverStep s t
  | noCopy (i : Front) : TxcTurn s i → s.backState ≠ .readyToCopy → s.frontId0 = s.frontId1 →
      SameDriver (txcEnd s) t → DriverStep s t

section
variable {s : State} {ts : List Turn} {k : Nat}

theorem driverStep_host {t : State} (hturn : nextTurn s = .host) (h : hostStep (scheduled ts k s) = .next t) :
    DriverStep s t := by
  rcases hostStep_cases h with hsame | ⟨a, i, prog, haccess, hi, hexec⟩
  · exact .quiet hsame
  · rcases (exec_instrEffect (decodeAccess_ne_wr_cmd hi) hexec).driver_cases with
      hsame | ⟨hfault, hstarted, rfl⟩ | ⟨rfl, hfault, hholds, rfl⟩
    · exact .quiet hsame
    · exact .start hturn hfault hstarted (SameDriver.refl _)
    · exact .frame a hturn haccess hi hfault hholds rfl (SameDriver.refl _)

theorem driverStep_ctrl (hturn : nextTurn s = .ctrl) : DriverStep s (ctrlStep (scheduled ts k s)) := by
  rcases ctrlStep_cases (scheduled ts k s) with h | ⟨hfault, hcpc, h⟩ | ⟨i, hfault, hcpc, htxc, h⟩ <;> rw [h]
  · exact .quiet (SameDriver.refl s)
  · exact .copyComplete hturn hfault hcpc (SameDriver.refl _)
  · have htxc : TxcTurn s i := ⟨hturn, hfault, hcpc, htxc⟩
    rcases txcHandler_cases i (scheduled ts k s) with ⟨_, _, h⟩ | ⟨hready, hcopy, h⟩ | ⟨hready, hids, hcopy, h⟩ |
      ⟨hready, hids, h⟩ <;> rw [h]
    · exact .quiet (sameDriver_raise _ (scheduled ts k s))
    · exact .copyFromBack i htxc hready hcopy (by cases i <;> exact SameDriver.refl _)
    · exact .copyFromFront i htxc hready hids hcopy (by cases i <;> exact SameDriver.refl _)
    · exact .noCopy i htxc hready hids (SameDriver.refl _)

theorem driverStep_txDone (hturn : nextTurn s = .txdma) : DriverStep s (txDone (scheduled ts k s)) := by
  rcases txDone_cases (scheduled ts k s) with h | ⟨c, h⟩ | ⟨hstarted, hfault, htxc, hcopy, h⟩ <;> rw [h]
  · exact .quiet (SameDriver.refl s)
  · exact .quiet (sameDriver_raise c (scheduled ts k s))
  · exact .txDone hturn hfault hstarted htxc hcopy (SameDriver.refl _)

theorem driverStep_copyDone (hturn : nextTurn s = .cpydma) : DriverStep s (copyDone (scheduled ts k s)) := by
  rcases copyDone_cases (scheduled ts k s) with h | ⟨c, hfault, hcopy, h⟩ <;> rw [h]
  · exact .quiet (SameDriver.refl s)
  · refine .copyDone c hturn hfault hcopy ?_
    obtain ⟨src, dst⟩ := c
    cases dst <;> exact SameDriver.refl _

theorem driverStep_dmaErr : DriverStep s (dmaErr (scheduled ts k s)) := by
  rcases dmaErr_cases (scheduled ts k s) with h | ⟨_, h⟩ <;> rw [h]
  · exact .quiet (SameDriver.refl s)
  · exact .quiet (sameDriver_raise _ (scheduled ts k s))

end

/-- Every step of every agent has one of these effects on the driver. -/
theorem step_driverStep {s t : State} (h : step s = .next t) : DriverStep s t := by
  obtain ⟨ts, k, hafter⟩ := afterTurn_eq s
  have hstep := step_effect s t h
  rw [show afterTurn s = scheduled ts k s from hafter] at hstep
  rcases hstep with ⟨hturn, hhost⟩ | ⟨hturn, rfl⟩ | ⟨hturn, rfl⟩ | ⟨hturn, rfl⟩ | ⟨_, rfl⟩
  · exact driverStep_host hturn hhost
  · exact driverStep_ctrl hturn
  · exact driverStep_txDone hturn
  · exact driverStep_copyDone hturn
  · exact driverStep_dmaErr

end Sys2Proof.Machine
end

section
/-! The invariant of the block (10_state R40, R41; 43_driver R165, R166, R171, R174): O48, O49. -/

namespace Sys2Proof.Machine

/-- The frame that SET reads has N pixels (R162). -/
@[simp] theorem framePixels_length (s : State) : (framePixels s).length = s.cfg.n :=
  pixelsOf_length _ _ (memRead_length _ _ _)

theorem encodesFrame_framePixels (s : State) : EncodesFrame s.cfg (encFrame s.cfg (framePixels s)) :=
  ⟨framePixels s, framePixels_length s, rfl⟩

section
variable {s t : State}

/-- The invariant speaks of the driver state, the configuration and memory only. -/
theorem Inv.of_sameDriver (h : Inv s) (hsame : SameDriver s t) (hcfg : t.cfg = s.cfg) (hmem : Memory.wf t.mem = true) :
    Inv t := by
  have hlast : lastHandled t = lastHandled s := by simp only [lastHandled, hsame.txcPending, hsame.txIdx]
  constructor
  case cfgWf => rw [hcfg]; exact h.cfgWf
  case memWf => exact hmem
  case buffers => intro b; rw [hcfg, hsame.buf]; exact h.buffers b
  case wire => rw [hcfg, hsame.wire]; exact h.wire
  case ids => rw [hsame.setCount, hsame.backId]; exact h.ids
  case copy =>
    unfold CopyOk
    rw [hsame.copy, hsame.started, hsame.txIdx, hsame.txcPending, hsame.cpcPending, hsame.backState]
    exact h.copy
  case copying => rw [hsame.backState, hsame.copy, hsame.cpcPending]; exact h.copying
  case pending => rw [hsame.txcPending, hsame.started, hsame.txIdx]; exact h.pending
  case unstarted =>
    rw [hsame.started, hsame.backState, hsame.cpcPending, hsame.txIdx, hsame.wire]; exact h.unstarted
  case fresh =>
    rw [hsame.backState, hsame.frontId0, hsame.frontId1, hlast, hsame.frontId, hsame.backId]; exact h.fresh

/-- Before START there is no copy (R198). -/
theorem Inv.copy_of_unstarted (h : Inv s) (hs : s.started = false) : s.copy = none := by
  rcases hk : s.copy with _ | k
  · rfl
  · obtain ⟨hstarted, _⟩ := h.copy k hk
    rw [hs] at hstarted; cases hstarted

/-- While a copy-complete event waits there is no copy (R174). -/
theorem Inv.copy_of_cpcPending (h : Inv s) (hc : s.cpcPending = true) : s.copy = none := by
  rcases hk : s.copy with _ | k
  · rfl
  · obtain ⟨_, _, _, hcpc, _⟩ := h.copy k hk
    rw [hc] at hcpc; cases hcpc

/-- A back buffer being copied has its copy in flight or its event pending (R173). -/
theorem Inv.backState_ne_copying (h : Inv s) (hk : s.copy = none) (hc : s.cpcPending = false) :
    s.backState ≠ .copying := by
  intro hb
  rcases h.copying hb with ⟨i, hi⟩ | hcpc
  · rw [hk] at hi; cases hi
  · rw [hc] at hcpc; cases hcpc

/-! ### Each effect on the driver keeps it -/

/-- START begins the ring where it stands, with no copy and no event (R161, R198). -/
theorem inv_ringBegun (h : Inv s) (hs : s.started = false) : Inv (ringBegun s) := by
  obtain ⟨_, _, htx, _⟩ := h.unstarted hs
  have hk := h.copy_of_unstarted hs
  rw [ringBegun, ← htx]
  exact { h with
    copy := fun k hk' => absurd (hk.symm.trans hk') nofun
    pending := fun i hi => ⟨rfl, (h.pending i hi).2⟩
    unstarted := nofun }

/-- SET completes before START or on a Free back buffer, so no copy from BACK is in flight (R164, R165). -/
theorem inv_setFrame (h : Inv s) (hholds : setHolds s = false) : Inv (setFrame (framePixels s) s) := by
  have hfree : s.started = true → s.backState = .free := by simpa [setHolds] using hholds
  exact { h with
    buffers := fun b => by
      rcases b with _ | (_ | _)
      · exact encodesFrame_framePixels s
      · exact h.buffers (.front .front0)
      · exact h.buffers (.front .front1)
    ids := congrArg (· + 1) h.ids
    copy := fun k hk => by
      obtain ⟨hs, hdst, htxc, hcpc, ⟨_, hcopying⟩ | ⟨hsrc, _⟩⟩ := h.copy k hk
      · rw [hfree hs] at hcopying; cases hcopying
      · exact ⟨hs, hdst, htxc, hcpc, .inr ⟨hsrc, nofun⟩⟩
    copying := nofun
    unstarted := fun hs => ⟨nofun, (h.unstarted hs).2⟩
    fresh := fun hready => absurd rfl hready }

/-- TXDONE appends a whole buffer, and the front buffer last handled is the same one as before (R168, R171). -/
theorem inv_bufferSent (h : Inv s) (hs : s.started = true) (htxc : s.txcPending = none) (hk : s.copy = none) :
    Inv (bufferSent s) := by
  have hlast : lastHandled s = lastHandled (bufferSent s) := by simp only [lastHandled, htxc, bufferSent]
  exact { h with
    wire := fun b hb => by
      rcases List.mem_append.mp hb with hb | hb
      · exact h.wire b hb
      · rw [List.mem_singleton.mp hb]; exact h.buffers _
    copy := fun k hk' => absurd (hk.symm.trans hk') nofun
    pending := fun i hi => by cases hi; exact ⟨hs, rfl⟩
    unstarted := fun hs' => absurd (hs.symm.trans hs') nofun
    fresh := by rw [← hlast]; exact h.fresh }

/-- COPYDONE puts one whole buffer in the place of another, and its event takes the place of the copy (R172, R173). -/
theorem inv_copied (h : Inv s) {k : Copy} (hk : s.copy = some k) : Inv (copied k s) := by
  obtain ⟨hs, _⟩ := h.copy k hk
  constructor
  case cfgWf => simpa [copied] using h.cfgWf
  case memWf => simpa [copied] using h.memWf
  case buffers =>
    intro b
    rcases buf_copied k s b with ⟨_, hb⟩ | ⟨_, hb⟩ <;> rw [hb] <;> simpa [copied] using h.buffers _
  case wire => simpa [copied] using h.wire
  case ids => simpa [copied] using h.ids
  case copy => simp [copied]
  case copying => simp [copied]
  case pending => simpa [copied] using h.pending
  case unstarted => simp [copied, hs]
  case fresh =>
    have hlast : lastHandled (copied k s) = lastHandled s := by simp [lastHandled, copied]
    rw [hlast]
    simpa [copied] using h.fresh

/-- The copy-complete handler makes a Copying back buffer Free, and there is no other copy by then (R173, R174). -/
theorem inv_cpcHandler (h : Inv s) (hcpc : s.cpcPending = true) : Inv (cpcHandler s) := by
  have hk := h.copy_of_cpcPending hcpc
  have hne : (cpcHandler s).backState ≠ .copying := by simp only [cpcHandler]; split <;> simp [*]
  exact { h with
    copy := fun k hk' => absurd (hk.symm.trans hk') nofun
    copying := fun hb => absurd hb hne
    unstarted := fun hs => ⟨hne, rfl, (h.unstarted hs).2.2⟩
    fresh := fun hb => h.fresh fun hready => hb (by simp [cpcHandler, hready]) }

/-- The front that the transmit-complete handler does not handle carries the newest id, if the two differ (R171). -/
theorem Inv.frontId_other (h : Inv s) {i : Front} (hi : s.txcPending = some i) (hb : s.backState ≠ .readyToCopy)
    (hids : s.frontId0 ≠ s.frontId1) : s.frontId i.other = s.backId := by
  simpa [lastHandled, hi] using h.fresh hb hids

/-- The transmit-complete handler begins a copy of the newest frame into the buffer that it handles, which is not the one
being sent (R170, R171). -/
theorem inv_copyBegun (h : Inv s) {i : Front} (hi : TxcTurn s i) {src : Buf} {b : BackState} {id : Word}
    (hsrc : src = .back ∧ b = .copying ∨ src = .front s.txIdx ∧ b ≠ .copying) (hid : id = s.backId) :
    Inv (copyBegun ⟨src, i⟩ b id s) := by
  obtain ⟨hs, htx⟩ := h.pending i hi.event
  have hother : s.txIdx.other = i := by rw [htx, other_other]
  have hcpc := hi.noCopyEvent
  constructor
  case cfgWf => simpa [copyBegun] using h.cfgWf
  case memWf => simpa [copyBegun] using h.memWf
  case buffers => intro x; rw [buf_copyBegun]; simpa [copyBegun] using h.buffers x
  case wire => simpa [copyBegun] using h.wire
  case ids => simpa [copyBegun] using h.ids
  case copy => simp [copyBegun, CopyOk, hs, hother, hcpc, hsrc]
  case copying =>
    rcases hsrc with ⟨hback, _⟩ | ⟨_, hb⟩
    · simp [copyBegun, hback]
    · simp [copyBegun, hb]
  case pending => simp [copyBegun]
  case unstarted => simp [copyBegun, hs]
  case fresh =>
    have hlast : lastHandled (copyBegun ⟨src, i⟩ b id s) = i := by simp [lastHandled, copyBegun, hother]
    rw [hlast]
    simp [copyBegun, hid]

/-- The handler that begins no copy leaves two fronts of one frame (R170). -/
theorem inv_txcEnd (h : Inv s) (hids : s.frontId0 = s.frontId1) : Inv (txcEnd s) :=
  { h with
    copy := fun k hk => by
      obtain ⟨hs, hdst, _, hcpc, hsrc⟩ := h.copy k hk
      exact ⟨hs, hdst, rfl, hcpc, hsrc⟩
    pending := nofun
    fresh := fun _ hne => absurd hids hne }

/-- Each effect on the driver keeps the invariant; what else a step does, `Inv.of_sameDriver` allows. -/
theorem DriverStep.inv (hstep : DriverStep s t) (h : Inv s) (hcfg : t.cfg = s.cfg) (hmem : Memory.wf t.mem = true) :
    Inv t := by
  cases hstep with
  | quiet hsame => exact h.of_sameDriver hsame hcfg hmem
  | start _ _ hs hsame => exact (inv_ringBegun h hs).of_sameDriver hsame hcfg hmem
  | frame _ _ _ _ _ hholds _ hsame => exact (inv_setFrame h hholds).of_sameDriver hsame hcfg hmem
  | txDone _ _ hs htxc hk hsame => exact (inv_bufferSent h hs htxc hk).of_sameDriver hsame hcfg hmem
  | copyDone k _ _ hk hsame => exact (inv_copied h hk).of_sameDriver hsame (by simpa [copied] using hcfg) hmem
  | copyComplete _ _ hcpc hsame => exact (inv_cpcHandler h hcpc).of_sameDriver hsame hcfg hmem
  | copyFromBack i hi _ _ hsame =>
    exact (inv_copyBegun h hi (.inl ⟨rfl, rfl⟩) rfl).of_sameDriver hsame (by simpa [copyBegun] using hcfg) hmem
  | copyFromFront i hi hready hids hk hsame =>
    obtain ⟨_, htx⟩ := h.pending i hi.event
    have hsrc : Buf.front i.other = .front s.txIdx := by rw [htx]
    exact (inv_copyBegun h hi (.inr ⟨hsrc, h.backState_ne_copying hk hi.noCopyEvent⟩)
      (h.frontId_other hi.event hready hids)).of_sameDriver hsame (by simpa [copyBegun] using hcfg) hmem
  | noCopy i hi _ hids hsame => exact (inv_txcEnd h hids).of_sameDriver hsame hcfg hmem

/-- The step lemma of the invariant. -/
theorem Inv.step (h : Inv s) (hstep : step s = .next t) : Inv t := by
  rcases step_keepsCfgMem_or_stores hstep with ⟨hcfg, hmem⟩ | ⟨addr, v, _, _, _, _, hcfg, hmem⟩
  · exact (step_driverStep hstep).inv h hcfg (by rw [hmem]; exact h.memWf)
  · exact (step_driverStep hstep).inv h hcfg (by rw [hmem]; exact writeByte_wf _ _ _ addr.isLt h.memWf)

end

/-- Settles O48: `DriverStep` says what a step does to the driver, and each of its cases keeps the invariant. -/
theorem everyStepKeepsInv : Obligations.EveryStepKeepsInv := fun _ _ h hstep => h.step hstep

/-- The invariant at reset: every buffer is the encoding of the black frame (R220, R221). -/
theorem inv_resetOf {c : Cfg} (hc : c.wf = true) : Inv (State.resetOf c) where
  cfgWf := hc
  memWf := rfl
  buffers b := by
    refine ⟨blackFrame c, List.length_replicate, ?_⟩
    rcases b with _ | (_ | _) <;> rfl
  wire := nofun
  ids := rfl
  copy := nofun
  copying := nofun
  pending := nofun
  unstarted := fun _ => ⟨nofun, rfl, rfl, rfl⟩
  fresh := fun _ hids => absurd rfl hids

/-- Every state that a run reaches has the invariant. -/
theorem Reachable.inv {s : State} (h : Reachable s) : Inv s := by
  induction h with
  | boot c m prog turns hc hm => exact (inv_resetOf hc).of_sameDriver (SameDriver.refl _) rfl hm
  | step s t _ hstep ih => exact ih.step hstep
  | reset s prog turns _ ih => exact (inv_resetOf ih.cfgWf).of_sameDriver (SameDriver.refl _) rfl ih.memWf

/-- A step keeps the counters of SET, or it is HOST's and completes a SET (R33, R35, R48). -/
theorem DriverStep.sameCounts_or_set {s t : State} (hstep : DriverStep s t) :
    (t.setCount = s.setCount ∧ t.backId = s.backId) ∨
      nextTurn s = .host ∧ (∃ a, hostAccess s = some a ∧ decodeAccess a = .ok .set) ∧ s.fault = none ∧ t.hostNow = none ∧
        SameDriver (setFrame (framePixels s) s) t := by
  cases hstep with
  | frame a hturn haccess hset hfault _ hnow hsame => exact .inr ⟨hturn, ⟨a, haccess, hset⟩, hfault, hnow, hsame⟩
  | quiet hsame => exact .inl ⟨hsame.setCount, hsame.backId⟩
  | start _ _ _ hsame => exact .inl ⟨hsame.setCount, hsame.backId⟩
  | txDone _ _ _ _ _ hsame => exact .inl ⟨hsame.setCount, hsame.backId⟩
  | copyDone k _ _ _ hsame => simp [hsame.setCount, hsame.backId, copied]
  | copyComplete _ _ _ hsame => exact .inl ⟨hsame.setCount, hsame.backId⟩
  | copyFromBack i _ _ _ hsame => simp [hsame.setCount, hsame.backId, copyBegun]
  | copyFromFront i _ _ _ _ hsame => simp [hsame.setCount, hsame.backId, copyBegun]
  | noCopy i _ _ _ hsame => exact .inl ⟨hsame.setCount, hsame.backId⟩

/-- Settles O49: only a completing SET moves the counters, and the invariant of reached states has them equal. -/
theorem setCountEqualsBackId : Obligations.SetCountEqualsBackId := by
  refine ⟨fun s t hstep hmoved => ?_, fun s hs => hs.inv.ids⟩
  rcases (step_driverStep hstep).sameCounts_or_set with ⟨hset, hid⟩ | ⟨hturn, haccess, hfault, hnow, hsame⟩
  · exact (hmoved.elim (· hset) (· hid)).elim
  · exact ⟨hturn, haccess, hfault, hnow, hsame.setCount, hsame.backId, hsame.backState⟩

end Sys2Proof.Machine
end

section
/-! Who writes what (10_state R38, R41, R46, R48; 43_driver R160, R172, R181): O51, O54, O55, O56, O57. -/

namespace Sys2Proof.Machine

section
variable {s t : State}

/-! ### Buffers and wire entries are whole -/

/-- `whole` holds of every buffer and of every wire entry. -/
def AllWhole (whole : List Byte → Prop) (s : State) : Prop := (∀ b, whole (s.buf b)) ∧ ∀ x ∈ s.wire, whole x

theorem SameDriver.allWhole {whole : List Byte → Prop} (hsame : SameDriver s t) (h : AllWhole whole s) :
    AllWhole whole t := by
  obtain ⟨hbuf, hwire⟩ := h
  exact ⟨fun b => by rw [hsame.buf]; exact hbuf b, by rw [hsame.wire]; exact hwire⟩

/-- A step puts only whole buffers, or the frame of the SET that completes in it, into buffers and onto the wire. -/
theorem DriverStep.allWhole {whole : List Byte → Prop} (hstep : DriverStep s t) (h : AllWhole whole s)
    (hset : t.setCount ≠ s.setCount → whole (encFrame s.cfg (framePixels s))) : AllWhole whole t := by
  obtain ⟨hbuf, hwire⟩ := id h
  cases hstep with
  | quiet hsame => exact hsame.allWhole h
  | start _ _ _ hsame => exact hsame.allWhole h
  | frame a _ _ _ _ _ _ hsame =>
    have hframe := hset (by rw [hsame.setCount]; exact (by bv_omega : s.setCount + 1 ≠ s.setCount))
    refine hsame.allWhole ⟨fun b => ?_, hwire⟩
    rcases b with _ | (_ | _)
    · exact hframe
    · exact hbuf (.front .front0)
    · exact hbuf (.front .front1)
  | txDone _ _ _ _ _ hsame =>
    refine hsame.allWhole ⟨hbuf, fun x hx => ?_⟩
    rcases List.mem_append.mp hx with hx | hx
    · exact hwire x hx
    · rw [List.mem_singleton.mp hx]; exact hbuf _
  | copyDone k _ _ _ hsame =>
    refine hsame.allWhole ⟨fun b => ?_, by simpa [copied] using hwire⟩
    rcases buf_copied k s b with ⟨_, hb⟩ | ⟨_, hb⟩ <;> rw [hb] <;> exact hbuf _
  | copyComplete _ _ _ hsame => exact hsame.allWhole h
  | copyFromBack i _ _ _ hsame =>
    exact hsame.allWhole ⟨by simpa using hbuf, by simpa [copyBegun] using hwire⟩
  | copyFromFront i _ _ _ _ hsame =>
    exact hsame.allWhole ⟨by simpa using hbuf, by simpa [copyBegun] using hwire⟩
  | noCopy i _ _ _ hsame => exact hsame.allWhole h

theorem EncodesFrame.length_eq {c : Cfg} {b : List Byte} (h : EncodesFrame c b) : b.length = c.frameLen := by
  obtain ⟨ps, hn, rfl⟩ := h
  rw [encFrame_length, hn, Cfg.frameLen]

end

/-- Settles O51: whole buffers only ever change places, and reached states have the invariant. -/
theorem noBufferIsTorn : Obligations.NoBufferIsTorn := by
  refine ⟨fun whole s t hstep hbuf hwire hset => (step_driverStep hstep).allWhole ⟨hbuf, hwire⟩ hset, fun s hs => ?_⟩
  exact ⟨fun b => ⟨hs.inv.buffers b, (hs.inv.buffers b).length_eq⟩,
    fun b hb => ⟨hs.inv.wire b hb, (hs.inv.wire b hb).length_eq⟩⟩

/-- Settles O54: SET, the transmit-complete handler with a ready frame and the copy-complete handler move the back state. -/
theorem backStateTransitions : Obligations.BackStateTransitions := by
  intro s t hinv hstep
  cases step_driverStep hstep with
  | quiet hsame => exact .inl hsame.backState
  | start _ _ _ hsame => exact .inl hsame.backState
  | frame a hturn _ _ _ hholds _ hsame =>
    cases hb : s.backState with
    | free => exact .inr (.inl ⟨rfl, hsame.backState, hturn, hsame.setCount⟩)
    | readyToCopy => exact .inl hsame.backState
    | copying =>
      have hs : s.started = false := by simpa [setHolds, hb] using hholds
      exact absurd hb (hinv.unstarted hs).1
  | txDone _ _ _ _ _ hsame => exact .inl hsame.backState
  | copyDone k _ _ _ hsame => exact .inl (by rw [hsame.backState]; simp [copied])
  | copyComplete hturn _ hcpc hsame =>
    have hback := hsame.backState
    by_cases hb : s.backState = .copying
    · exact .inr (.inr (.inr ⟨hb, by simpa [cpcHandler, hb] using hback, hturn, hcpc⟩))
    · exact .inl (by simpa [cpcHandler, hb] using hback)
  | copyFromBack i hi hready _ hsame =>
    have hback : t.backState = .copying := by simpa [copyBegun] using hsame.backState
    exact .inr (.inr (.inl ⟨hready, hback, hi.turn, by simp [hi.event]⟩))
  | copyFromFront i _ _ _ _ hsame => exact .inl (by rw [hsame.backState]; simp [copyBegun])
  | noCopy i _ _ _ hsame => exact .inl hsame.backState

/-- SET completes only into a BACK that the application owns, or before START (R165, R181). -/
theorem owner_back_of_not_setHolds {s : State} (h : setHolds s = false) :
    owner s .back = .application ∨ s.started = false := by
  cases hs : s.started with
  | false => exact .inr rfl
  | true =>
    have hfree : s.backState = .free := by simpa [setHolds, hs] using h
    exact .inl (by simp [owner, hfree])

/-- A step keeps BACK, or it is HOST's, with BACK owned by the application or before START (R181). -/
theorem DriverStep.bufBack_eq_or {s t : State} (hstep : DriverStep s t) :
    t.bufBack = s.bufBack ∨
      nextTurn s = .host ∧ s.fault = none ∧ (owner s .back = .application ∨ s.started = false) := by
  cases hstep with
  | frame a hturn _ _ hfault hholds _ _ => exact .inr ⟨hturn, hfault, owner_back_of_not_setHolds hholds⟩
  | quiet hsame => exact .inl hsame.bufBack
  | start _ _ _ hsame => exact .inl hsame.bufBack
  | txDone _ _ _ _ _ hsame => exact .inl hsame.bufBack
  | copyDone k _ _ _ hsame => exact .inl (hsame.bufBack.trans (copied_bufBack k s))
  | copyComplete _ _ _ hsame => exact .inl hsame.bufBack
  | copyFromBack i _ _ _ hsame => exact .inl (hsame.bufBack.trans (by simp [copyBegun]))
  | copyFromFront i _ _ _ _ hsame => exact .inl (hsame.bufBack.trans (by simp [copyBegun]))
  | noCopy i _ _ _ hsame => exact .inl hsame.bufBack

/-- A step keeps a front buffer, or it is CPYDMA's, and the buffer takes the source of the copy that owns it (R172). -/
theorem DriverStep.front_eq_or {s t : State} (hstep : DriverStep s t) (i : Front) :
    t.buf (.front i) = s.buf (.front i) ∨
      nextTurn s = .cpydma ∧ ∃ k, s.copy = some k ∧ k.dst = i ∧ t.buf (.front i) = s.buf k.src := by
  cases hstep with
  | copyDone k hturn _ hk hsame =>
    have hbuf := hsame.buf (.front i)
    rcases buf_copied k s (.front i) with ⟨hdst, hb⟩ | ⟨_, hb⟩
    · exact .inr ⟨hturn, k, hk, (Buf.front.inj hdst).symm, hbuf.trans hb⟩
    · exact .inl (hbuf.trans hb)
  | quiet hsame => exact .inl (hsame.buf _)
  | start _ _ _ hsame => exact .inl (hsame.buf _)
  | frame a _ _ _ _ _ _ hsame => exact .inl ((hsame.buf _).trans (by cases i <;> rfl))
  | txDone _ _ _ _ _ hsame => exact .inl (hsame.buf _)
  | copyComplete _ _ _ hsame => exact .inl (hsame.buf _)
  | copyFromBack _ _ _ _ hsame => exact .inl ((hsame.buf _).trans (buf_copyBegun ..))
  | copyFromFront _ _ _ _ _ hsame => exact .inl ((hsame.buf _).trans (buf_copyBegun ..))
  | noCopy _ _ _ _ hsame => exact .inl (hsame.buf _)

/-- Settles O55: SET alone writes BACK, and COPYDONE alone a front buffer, the one that its copy owns. -/
theorem onlyOwnersWriteBuffers : Obligations.OnlyOwnersWriteBuffers := by
  intro s t hstep
  have hdriver := step_driverStep hstep
  refine ⟨fun hback => hdriver.bufBack_eq_or.resolve_left hback, fun i hfront => ?_⟩
  obtain ⟨hturn, k, hk, hdst, hbuf⟩ := (hdriver.front_eq_or i).resolve_left hfront
  exact ⟨hturn, by simp [owner, hk, hdst], k, hk, hdst, hbuf⟩

/-- A step keeps the flip count and the front ids, or it handles a transmit-complete event (R170). -/
theorem DriverStep.sameFlips_or {s t : State} (hstep : DriverStep s t) :
    (t.flipCount = s.flipCount ∧ t.frontId0 = s.frontId0 ∧ t.frontId1 = s.frontId1) ∨
      ∃ i, TxcTurn s i ∧ t.flipCount = s.flipCount + 1 := by
  cases hstep with
  | copyFromBack i hi _ _ hsame => exact .inr ⟨i, hi, by rw [hsame.flipCount]; simp [copyBegun]⟩
  | copyFromFront i hi _ _ _ hsame => exact .inr ⟨i, hi, by rw [hsame.flipCount]; simp [copyBegun]⟩
  | noCopy i hi _ _ hsame => exact .inr ⟨i, hi, hsame.flipCount⟩
  | quiet hsame => exact .inl ⟨hsame.flipCount, hsame.frontId0, hsame.frontId1⟩
  | start _ _ _ hsame => exact .inl ⟨hsame.flipCount, hsame.frontId0, hsame.frontId1⟩
  | frame _ _ _ _ _ _ _ hsame => exact .inl ⟨hsame.flipCount, hsame.frontId0, hsame.frontId1⟩
  | txDone _ _ _ _ _ hsame => exact .inl ⟨hsame.flipCount, hsame.frontId0, hsame.frontId1⟩
  | copyDone k _ _ _ hsame => simp [hsame.flipCount, hsame.frontId0, hsame.frontId1, copied]
  | copyComplete _ _ _ hsame => exact .inl ⟨hsame.flipCount, hsame.frontId0, hsame.frontId1⟩

/-- Settles O56: SET writes the one pair of counters, the transmit-complete handler the others. -/
theorem countersAreSingleWriter : Obligations.CountersAreSingleWriter := by
  intro s t hstep
  constructor
  · rcases (step_driverStep hstep).sameCounts_or_set with hsame | ⟨hturn, _, _, _, hsame⟩
    · exact .inl hsame
    · exact .inr ⟨hturn, hsame.setCount, hsame.backId⟩
  · rcases (step_driverStep hstep).sameFlips_or with hsame | ⟨i, hi, hflip⟩
    · exact .inl hsame
    · exact .inr ⟨hi.turn, hi.noCopyEvent, by simp [hi.event], hflip⟩

/-- A step keeps the wire history, or it is a TXDONE without a fault (R168). -/
theorem DriverStep.wire_eq_or {s t : State} (hstep : DriverStep s t) :
    t.wire = s.wire ∨
      nextTurn s = .txdma ∧ s.started = true ∧ s.fault = none ∧ SameDriver (bufferSent s) t := by
  cases hstep with
  | txDone hturn hfault hs _ _ hsame => exact .inr ⟨hturn, hs, hfault, hsame⟩
  | quiet hsame => exact .inl hsame.wire
  | start _ _ _ hsame => exact .inl hsame.wire
  | frame _ _ _ _ _ _ _ hsame => exact .inl hsame.wire
  | copyDone k _ _ _ hsame => exact .inl (hsame.wire.trans (by simp [copied]))
  | copyComplete _ _ _ hsame => exact .inl hsame.wire
  | copyFromBack _ _ _ _ hsame => exact .inl (hsame.wire.trans (by simp [copyBegun]))
  | copyFromFront _ _ _ _ _ hsame => exact .inl (hsame.wire.trans (by simp [copyBegun]))
  | noCopy _ _ _ _ hsame => exact .inl hsame.wire

/-- Settles O57: TXDONE appends the buffer whose bits the line carried. -/
theorem onlyTxDoneExtendsWire : Obligations.OnlyTxDoneExtendsWire := by
  intro s t hstep
  rcases (step_driverStep hstep).wire_eq_or with hwire | ⟨hturn, hs, hfault, hsame⟩
  · exact .inl hwire
  · have hwire : t.wire = s.wire ++ [s.buf (.front s.txIdx)] := hsame.wire
    refine .inr ⟨hturn, hs, hfault, hsame.txIdx, hwire, fun k => ?_, ?_⟩
    · simp [lineBit, liveBit, currentBits, hfault, hs]
    · simp [lineHistory, hwire]

end Sys2Proof.Machine
end

section
/-! STATUS and the operand registers as the host reads them (10_state R24 to R32): O15, O18. -/

namespace Sys2Proof.Machine

/-! ### STATUS -/

/-- The layout of R24, for any content of the fields: each is read back at its own bits. -/
theorem statusLayout (reserved : BitVec 20) (fcause : BitVec 4) (faulted cpc txc busy txIdx started : Bool)
    (bstate : BitVec 2) :
    let w := reserved ++ fcause ++ BitVec.ofBool faulted ++ BitVec.ofBool cpc ++ BitVec.ofBool txc ++ BitVec.ofBool busy
      ++ BitVec.ofBool txIdx ++ BitVec.ofBool started ++ bstate
    w.extractLsb' 0 2 = bstate ∧ w.getLsbD 2 = started ∧ w.getLsbD 3 = txIdx ∧ w.getLsbD 4 = busy ∧ w.getLsbD 5 = txc ∧
      w.getLsbD 6 = cpc ∧ w.getLsbD 7 = faulted ∧ w.extractLsb' 8 4 = fcause ∧ w.extractLsb' 12 20 = reserved := by
  refine ⟨?_, ?_, ?_, ?_, ?_, ?_, ?_, ?_, ?_⟩ <;>
    simp [-Nat.reduceAdd, BitVec.getElem_append, BitVec.extractLsb'_append_eq_of_le,
      BitVec.extractLsb'_append_eq_of_add_le]

theorem frontBit_eq_true_iff (i : Front) : frontBit i = true ↔ i = .front1 := by cases i <;> simp [frontBit]

theorem backStateCode_ne_three (b : BackState) : backStateCode b ≠ 3 := by cases b <;> decide

/-- Settles O15: the fields are where `statusLayout` reads them, with the codes of R24 and R191. -/
theorem statusShowsState : Obligations.StatusShowsState := by
  refine ⟨fun c => by simp [statusWord, State.resetOf, faultCode, frontBit, backStateCode], fun s => ?_⟩
  obtain ⟨hbstate, hstarted, htxIdx, hbusy, htxc, hcpc, hfaulted, hfcause, hreserved⟩ :=
    statusLayout 0 (faultCode s.fault) s.fault.isSome s.cpcPending s.txcPending.isSome s.copy.isSome (frontBit s.txIdx)
      s.started (backStateCode s.backState)
  refine ⟨exec_rd_aligned _ _ rfl, fun d => exec_wr_reg _ _ _ rfl (by decide), hbstate.trans ?_, ?_, hstarted,
    (Eq.congr_left htxIdx).trans (frontBit_eq_true_iff _), ?_, ?_, hcpc, ?_, hfcause.trans ?_, hreserved⟩
  · cases s.backState <;> rfl
  · exact hbstate.trans_ne (backStateCode_ne_three _)
  · exact (Eq.congr_left hbusy).trans (Option.isSome_iff_ne_none)
  · exact (Eq.congr_left htxc).trans (Option.isSome_iff_ne_none)
  · exact (Eq.congr_left hfaulted).trans (Option.isSome_iff_ne_none)
  · rcases s.fault with _ | (_ | _ | _ | _ | _ | _ | _) <;> rfl

/-! ### Operand registers -/

/-- Storing a word in `k` bits and reading it back clears the bits above (R25 to R29). -/
theorem setWidth_setWidth_word (k : Nat) (hk : k ≤ 32) (d : Word) :
    (d.setWidth k).setWidth 32 = d &&& BitVec.ofNat 32 (2 ^ k - 1) := by
  have hpow : 2 ^ k ≤ 2 ^ 32 := Nat.pow_le_pow_right (by norm_num) hk
  have hpos := Nat.two_pow_pos k
  have hmod := Nat.mod_lt d.toNat hpos
  apply BitVec.eq_of_toNat_eq
  rw [BitVec.toNat_and, BitVec.toNat_ofNat, Nat.mod_eq_of_lt (by omega), Nat.and_two_pow_sub_one_eq_mod,
    BitVec.toNat_setWidth, BitVec.toNat_setWidth, Nat.mod_eq_of_lt (by omega)]

/-- A read after a write of the same register gives what `readReg` finds in what `writeReg` left (R90, R91). -/
theorem exec_wr_rd {off : BitVec 12} (ha : alignedOff off = true) (h0 : off ≠ 0) (s : State) {d w : Word}
    (hw : readReg off (writeReg off d s) = w) :
    ∃ t u, exec (.wr off d) s = .next t ∧ exec (.rd off) t = .next u ∧ u.readData = w :=
  ⟨_, _, exec_wr_reg off d s ha h0, exec_rd_aligned off _ ha, hw⟩

/-- Settles O18: register by register, `setWidth_setWidth_word` at the register's width. -/
theorem readAfterWrite : Obligations.ReadAfterWrite := by
  intro s d p hp
  have hword : d = d &&& 0xFFFFFFFF := by simpa using setWidth_setWidth_word 32 le_rfl d
  simp only [List.mem_cons, List.not_mem_nil, or_false] at hp
  rcases hp with rfl | rfl | rfl | rfl | rfl | rfl | rfl
  · exact exec_wr_rd rfl (by decide) s (setWidth_setWidth_word 24 (by norm_num) d)
  · exact exec_wr_rd rfl (by decide) s (setWidth_setWidth_word 24 (by norm_num) d)
  · exact exec_wr_rd rfl (by decide) s (setWidth_setWidth_word 8 (by norm_num) d)
  · exact exec_wr_rd rfl (by decide) s hword
  · exact exec_wr_rd rfl (by decide) s hword
  · exact exec_wr_rd rfl (by decide) s hword
  · exact exec_wr_rd rfl (by decide) s hword

end Sys2Proof.Machine
end

section
/-! Colour data flows into nothing else (41_color section 2): O59. -/

namespace Sys2Proof.Machine

/-- `s` with other colour data: OPA, OPB, FACTOR, RESULT and the word last read. -/
def recolour (a b r : Packed) (f : Byte) (d : Word) (s : State) : State :=
  { s with opa := a, opb := b, result := r, factor := f, readData := d }

/-- `s'` differs from `s` in colour data only. -/
def ColourTwin (s s' : State) : Prop := ∃ a b r f d, s' = recolour a b r f d s

/-- Where `o` answers a next state, `o'` answers one that differs in colour data only. -/
def OutcomeTwin (o o' : Host.Outcome State Fault Refusal) : Prop :=
  ∀ t, o = .next t → ∃ t', o' = .next t' ∧ ColourTwin t t'

/-- `f` neither reads colour data, except to write colour data, nor writes anything else from it. -/
def KeepsTwin (f : State → State) : Prop := ∀ s s', ColourTwin s s' → ColourTwin (f s) (f s')

theorem OutcomeTwin.next {s s' : State} (h : ColourTwin s s') : OutcomeTwin (.next s) (.next s') := by
  rintro t ⟨⟩
  exact ⟨s', rfl, h⟩

theorem OutcomeTwin.refused (r : Refusal) (o : Host.Outcome State Fault Refusal) : OutcomeTwin (.refused r) o := by
  rintro t ⟨⟩

theorem OutcomeTwin.fault (r : Fault) (o : Host.Outcome State Fault Refusal) : OutcomeTwin (.fault r) o := by
  rintro t ⟨⟩

/-- A function that commutes with `recolour` keeps twins. -/
theorem KeepsTwin.of_commutes {f : State → State}
    (h : ∀ a b r g d s, f (recolour a b r g d s) = recolour a b r g d (f s) := by intros; rfl) : KeepsTwin f := by
  rintro s _ ⟨a, b, r, g, d, rfl⟩
  exact ⟨a, b, r, g, d, h a b r g d s⟩

/-- A function with two branches keeps twins if both do and the choice between them reads no colour data. -/
theorem KeepsTwin.ite {p : State → Prop} [DecidablePred p] {f g : State → State}
    (hf : KeepsTwin f) (hg : KeepsTwin g)
    (hp : ∀ a b r g d s, p (recolour a b r g d s) ↔ p s := by intros; rfl) :
    KeepsTwin fun s => if p s then f s else g s := by
  rintro s _ ⟨a, b, r, k, d, rfl⟩
  have htwin : ColourTwin s (recolour a b r k d s) := ⟨a, b, r, k, d, rfl⟩
  by_cases hs : p s
  · simpa only [if_pos hs, if_pos ((hp ..).mpr hs)] using hf _ _ htwin
  · simpa only [if_neg hs, if_neg (fun h => hs ((hp ..).mp h))] using hg _ _ htwin

/-! ### The operations -/

theorem keepsTwin_id : KeepsTwin fun s => s := fun _ _ h => h

theorem keepsTwin_raise (c : Cause) : KeepsTwin (raise c) := by
  refine .of_commutes fun a b r f d s => ?_
  rw [raise_eq, raise_eq]
  rfl

theorem keepsTwin_hostWaits (a : Access) : KeepsTwin (hostWaits a) := .of_commutes

/-- RESULT may be written from anything (R30). -/
theorem keepsTwin_withResult (v : State → Packed) : KeepsTwin fun s => s.withResult (v s) := by
  rintro s _ ⟨a, b, r, f, d, rfl⟩
  exact ⟨a, b, _, f, d, rfl⟩

theorem keepsTwin_blendBody : KeepsTwin blendBody :=
  .ite (keepsTwin_raise _) (.ite (keepsTwin_raise _) (keepsTwin_withResult _))

theorem keepsTwin_startBody : KeepsTwin startBody := .ite keepsTwin_id .of_commutes

theorem keepsTwin_setBody : KeepsTwin setBody :=
  .ite (keepsTwin_raise _) (.ite (keepsTwin_hostWaits _) (.ite .of_commutes (keepsTwin_hostWaits _)))

theorem keepsTwin_txDone : KeepsTwin txDone :=
  .ite (.ite (keepsTwin_raise _) (.ite (keepsTwin_raise _) .of_commutes)) keepsTwin_id

theorem keepsTwin_dmaErr : KeepsTwin dmaErr := .ite (keepsTwin_raise _) keepsTwin_id

theorem keepsTwin_copied (k : Copy) : KeepsTwin (copied k) := by
  obtain ⟨src, dst⟩ := k
  cases dst <;> exact .of_commutes

theorem keepsTwin_copyDone : KeepsTwin copyDone := by
  rintro s s' ⟨a, b, r, f, d, rfl⟩
  have htwin : ColourTwin s (recolour a b r f d s) := ⟨a, b, r, f, d, rfl⟩
  cases hf : s.fault with
  | some c => simpa [copyDone, hf, recolour] using htwin
  | none =>
    cases hk : s.copy with
    | none => simpa [copyDone, hf, hk, recolour] using htwin
    | some k => simpa [copyDone, hf, hk, recolour, copied] using keepsTwin_copied k _ _ htwin

theorem keepsTwin_txcHandler (i : Front) : KeepsTwin (txcHandler i) := by
  cases i <;>
    exact .ite (.ite (keepsTwin_raise _) .of_commutes) (.ite (.ite (keepsTwin_raise _) .of_commutes) .of_commutes)

theorem keepsTwin_cpcHandler : KeepsTwin cpcHandler := .of_commutes

theorem keepsTwin_ctrlStep : KeepsTwin ctrlStep := by
  rintro s s' ⟨a, b, r, f, d, rfl⟩
  have htwin : ColourTwin s (recolour a b r f d s) := ⟨a, b, r, f, d, rfl⟩
  cases hf : s.fault with
  | some c => simpa [ctrlStep, hf, recolour] using htwin
  | none =>
    cases hc : s.cpcPending with
    | true => simpa [ctrlStep, hf, hc, recolour] using keepsTwin_cpcHandler _ _ htwin
    | false =>
      cases hp : s.txcPending with
      | none => simpa [ctrlStep, hf, hc, hp, recolour] using htwin
      | some i => simpa [ctrlStep, hf, hc, hp, recolour] using keepsTwin_txcHandler i _ _ htwin

theorem keepsTwin_writeReg (off : BitVec 12) (w : Word) : KeepsTwin (writeReg off w) := by
  rintro s _ ⟨a, b, r, f, d, rfl⟩
  unfold writeReg
  split <;> exact ⟨_, _, _, _, _, rfl⟩

theorem keepsTwin_accessTaken : KeepsTwin fun s => { s with hostNow := none } := .of_commutes

theorem keepsTwin_progressed (prog : List HostAct) : KeepsTwin fun s => { s with hostProg := prog } := .of_commutes

theorem keepsTwin_stored (addr : Nat) (v : Byte) : KeepsTwin fun s => { s with mem := writeByte s.mem addr v } :=
  .of_commutes

/-! ### Instructions, the host and the step -/

section
variable {s s' : State} (h : ColourTwin s s')
include h

theorem command_twin {w : Word} {body : State → State} (hbody : KeepsTwin body) :
    OutcomeTwin (command w body s) (command w body s') := by
  have htwin := h
  obtain ⟨a, b, r, f, d, rfl⟩ := h
  cases hf : s.fault with
  | none => simpa [command, hf, recolour] using OutcomeTwin.next (hbody _ _ htwin)
  | some c => simpa [command, hf, recolour] using OutcomeTwin.next (keepsTwin_hostWaits (cmdAccess w) _ _ htwin)

theorem dispatch_twin (w : Word) : OutcomeTwin (dispatch w s) (dispatch w s') := by
  unfold dispatch
  split
  · exact command_twin h (keepsTwin_withResult _)
  · exact command_twin h (keepsTwin_withResult _)
  · exact command_twin h (keepsTwin_withResult _)
  · exact command_twin h (keepsTwin_withResult _)
  · exact command_twin h (keepsTwin_withResult _)
  · exact command_twin h (keepsTwin_withResult _)
  · exact command_twin h keepsTwin_blendBody
  · exact command_twin h (keepsTwin_withResult _)
  · exact command_twin h keepsTwin_startBody
  · exact command_twin h keepsTwin_setBody
  · exact command_twin h (keepsTwin_raise _)

theorem exec_twin (i : Instr) : OutcomeTwin (exec i s) (exec i s') := by
  cases i with
  | rgb2hsv => exact dispatch_twin h 0x1
  | hsv2rgb => exact dispatch_twin h 0x2
  | powc => exact dispatch_twin h 0x3
  | logc => exact dispatch_twin h 0x4
  | toi => exact dispatch_twin h 0x5
  | fromi => exact dispatch_twin h 0x6
  | blend => exact dispatch_twin h 0x7
  | chbright => exact dispatch_twin h 0x8
  | start => exact dispatch_twin h 0x9
  | set => exact dispatch_twin h 0xA
  | illegal w => exact command_twin h (keepsTwin_raise _)
  | wr off d =>
    simp only [exec, execWr]
    split
    · exact .next (keepsTwin_hostWaits _ _ _ h)
    · split
      · exact dispatch_twin h d
      · exact .next (keepsTwin_writeReg off d _ _ h)
  | rd off =>
    simp only [exec, execRd]
    split
    · exact .next (keepsTwin_hostWaits _ _ _ h)
    · obtain ⟨a, b, r, f, d, rfl⟩ := h
      exact .next ⟨a, b, r, f, _, rfl⟩

theorem issue_twin (a : Access) : OutcomeTwin (issue a s) (issue a s') := by
  unfold issue
  split
  · exact exec_twin (keepsTwin_accessTaken _ _ h) _
  · exact .refused _ _
  · exact .next (keepsTwin_hostWaits a _ _ h)
  · exact .next (keepsTwin_hostWaits a _ _ h)

theorem hostStore_twin (addr : Word) (v : Byte) : OutcomeTwin (hostStore addr v s) (hostStore addr v s') := by
  have hcfg : s'.cfg = s.cfg := by obtain ⟨_, _, _, _, _, rfl⟩ := h; rfl
  cases hmem : memOK s.cfg addr.toNat 1 with
  | true => simpa [hostStore, hcfg, hmem] using OutcomeTwin.next (keepsTwin_stored addr.toNat v _ _ h)
  | false => simpa [hostStore, hcfg, hmem] using OutcomeTwin.fault _ _

theorem hostStep_twin : OutcomeTwin (hostStep s) (hostStep s') := by
  have hnow' : s'.hostNow = s.hostNow := by obtain ⟨_, _, _, _, _, rfl⟩ := h; rfl
  have hprog' : s'.hostProg = s.hostProg := by obtain ⟨_, _, _, _, _, rfl⟩ := h; rfl
  cases hnow : s.hostNow with
  | some a => simpa only [hostStep, hnow', hnow] using issue_twin h a
  | none =>
    rcases hprog : s.hostProg with _ | ⟨a | ⟨addr, v⟩, rest⟩
    · simpa only [hostStep, hnow', hprog', hnow, hprog] using OutcomeTwin.next h
    · simpa only [hostStep, hnow', hprog', hnow, hprog] using issue_twin (keepsTwin_progressed rest _ _ h) a
    · simpa only [hostStep, hnow', hprog', hnow, hprog] using hostStore_twin (keepsTwin_progressed rest _ _ h) addr v

theorem agentStep_twin (t : Turn) : OutcomeTwin (agentStep t s) (agentStep t s') := by
  cases t with
  | host => exact hostStep_twin h
  | ctrl => exact .next (keepsTwin_ctrlStep _ _ h)
  | txdma => exact .next (keepsTwin_txDone _ _ h)
  | cpydma => exact .next (keepsTwin_copyDone _ _ h)
  | dmaerr => exact .next (keepsTwin_dmaErr _ _ h)

end

theorem keepsTwin_afterTurn : KeepsTwin afterTurn := by
  refine .of_commutes fun a b r f d s => ?_
  cases hturns : s.turns <;> simp [afterTurn, recolour, hturns]

/-- Settles O59: every operation keeps twins, so the step of whichever agent has the turn does. -/
theorem colourDataStaysInColour : Obligations.ColourDataStaysInColour := by
  intro s t a b r f d hstep
  have htwin : ColourTwin s (recolour a b r f d s) := ⟨a, b, r, f, d, rfl⟩
  obtain ⟨t', hstep', a', b', r', f', d', rfl⟩ :=
    agentStep_twin (keepsTwin_afterTurn _ _ htwin) (nextTurn s) t hstep
  exact ⟨a', b', r', f', d', hstep'⟩

end Sys2Proof.Machine
end

section
/-! Which bus accesses the block admits, by address (20_memory R51, R58, R62; 30_encoding R71): O3, O4. -/

namespace Sys2Proof.Machine

/-! ### Decoding by address -/

section
variable {c : Cfg} {addr : Word} {size : Nat}

/-- An access lies outside the block exactly where its address does (R71): BASE is aligned, so nothing wraps (R62). -/
theorem lt_sub_base_iff :
    0xFFF#32 < addr - c.base ↔ addr.toNat < c.base.toNat ∨ c.base.toNat + 0xFFF < addr.toNat := by
  have haddr := addr.isLt
  have ⟨_, hbase⟩ := base_aligned c
  rw [BitVec.lt_def, toNat_sub_base, BitVec.toNat_ofNat]
  split <;> omega

theorem not_lt_sub_base (hlo : c.base.toNat ≤ addr.toNat) (hhi : addr.toNat ≤ c.base.toNat + 0xFFF) :
    ¬ 0xFFF#32 < addr - c.base := by
  rw [lt_sub_base_iff]
  omega

/-- BASE is a multiple of 4, so an offset is aligned exactly when the address is (R58, R62). -/
theorem alignedOff_sub_base_iff : alignedOff ((addr - c.base).setWidth 12) = true ↔ addr.toNat % 4 = 0 := by
  have haddr := addr.isLt
  have ⟨hbase, _⟩ := base_aligned c
  rw [alignedOff_iff, BitVec.toNat_setWidth, toNat_sub_base]
  split <;> omega

theorem decodeAccess_outside (dir : Dir) (data : Word)
    (hout : addr.toNat < c.base.toNat ∨ c.base.toNat + 0xFFF < addr.toNat) :
    decodeAccess (accessAt c dir addr size data) = .error .outsideBlock := by
  rw [accessAt, decodeAccess_mk, if_pos (lt_sub_base_iff.mpr hout)]

/-- Inside the block, a narrow or misaligned access is refused for its size or its alignment (R58). -/
theorem decodeAccess_not_admitted (dir : Dir) (data : Word) (hlo : c.base.toNat ≤ addr.toNat)
    (hhi : addr.toNat ≤ c.base.toNat + 0xFFF) (hbad : size ≠ 4 ∨ addr.toNat % 4 ≠ 0) :
    decodeAccess (accessAt c dir addr size data) = .error .badSize ∨
      decodeAccess (accessAt c dir addr size data) = .error .misaligned := by
  rw [accessAt, decodeAccess_mk, if_neg (not_lt_sub_base hlo hhi)]
  by_cases hsize : size = 4
  · have hmis : alignedOff ((addr - c.base).setWidth 12) = false := by
      simpa [← Bool.not_eq_true, alignedOff_sub_base_iff] using hbad.neg_resolve_left hsize
    rw [if_neg (not_not_intro hsize), if_pos hmis]
    exact .inr rfl
  · rw [if_pos hsize]
    exact .inl rfl

/-- An aligned read of 4 bytes inside the block is the RD of its offset (R71). -/
theorem decodeAccess_read_admitted (data : Word) (hlo : c.base.toNat ≤ addr.toNat)
    (hhi : addr.toNat ≤ c.base.toNat + 0xFFF) (halign : addr.toNat % 4 = 0) :
    decodeAccess (accessAt c .read addr 4 data) = .ok (.rd ((addr - c.base).setWidth 12)) := by
  have haligned := alignedOff_sub_base_iff (c := c).mpr halign
  simp only [accessAt, decodeAccess_mk, not_lt_sub_base hlo hhi, haligned, if_false, ne_eq, not_true_eq_false,
    reduceCtorEq]

/-- An aligned write of 4 bytes is the command of its data word at BASE, and the WR to its offset above (R70, R71). -/
theorem decodeAccess_write_admitted (data : Word) (hlo : c.base.toNat ≤ addr.toNat)
    (hhi : addr.toNat ≤ c.base.toNat + 0xFFF) (halign : addr.toNat % 4 = 0) :
    decodeAccess (accessAt c .write addr 4 data) =
      .ok (if addr = c.base then decodeCommand data else .wr ((addr - c.base).setWidth 12) data) := by
  have haligned := alignedOff_sub_base_iff (c := c).mpr halign
  have hcmd : addr - c.base = 0 ↔ addr = c.base := sub_eq_zero
  simp only [accessAt, decodeAccess_mk, not_lt_sub_base hlo hhi, haligned, if_false, ne_eq, not_true_eq_false,
    reduceCtorEq, hcmd, apply_ite Except.ok]

end

/-- Settles O3: the three classes of accesses, each by its address. -/
theorem accessAdmission : Obligations.AccessAdmission := by
  intro c dir addr size data
  have ⟨hbase, _⟩ := base_aligned c
  refine ⟨?_, fun hnot => ?_, fun hout s => ?_⟩
  · rintro ⟨rfl, halign, hlo, hhi⟩
    cases dir with
    | read => exact decodeAccess_read_admitted data hlo (by omega) halign
    | write => exact decodeAccess_write_admitted data hlo (by omega) halign
  · by_cases hin : c.base.toNat ≤ addr.toNat ∧ addr.toNat ≤ c.base.toNat + 0xFFF
    · obtain ⟨hlo, hhi⟩ := hin
      rcases decodeAccess_not_admitted dir data hlo hhi (size := size) (by omega) with h | h <;> exact ⟨_, h⟩
    · exact ⟨_, decodeAccess_outside dir data (by omega)⟩
  · rw [issue, decodeAccess_outside dir data hout]

/-! ### The host at an access that is not admitted -/

/-- A narrow or misaligned access to the block leaves the host waiting in it (R58). -/
theorem issue_not_admitted {c : Cfg} {addr : Word} {size : Nat} (dir : Dir) (data : Word) (s : State)
    (hlo : c.base.toNat ≤ addr.toNat) (hhi : addr.toNat ≤ c.base.toNat + 0xFFF) (hbad : size ≠ 4 ∨ addr.toNat % 4 ≠ 0) :
    issue (accessAt c dir addr size data) s = .next (hostWaits (accessAt c dir addr size data) s) := by
  rcases decodeAccess_not_admitted dir data hlo hhi hbad with h | h <;> rw [issue, h]

/-- A step of HOST goes on with the access it waits in (R94). -/
theorem step_of_waiting {s : State} {a : Access} {ts : List Turn} (hturns : s.turns = .host :: ts)
    (hnow : s.hostNow = some a) : step s = issue a { s with turns := ts } := by
  simp only [step, nextTurn, afterTurn, hturns, agentStep, hostStep, hnow]

/-- A step of HOST that waits in no access issues the one its program comes to (R97). -/
theorem step_of_access {s : State} {a : Access} {ts : List Turn} {rest : List HostAct} (hturns : s.turns = .host :: ts)
    (hnow : s.hostNow = none) (hprog : s.hostProg = .access a :: rest) :
    step s = issue a { s with turns := ts, hostProg := rest } := by
  simp only [step, nextTurn, afterTurn, hturns, agentStep, hostStep, hnow, hprog]

theorem hostWaits_of_waiting {s : State} {a : Access} (h : s.hostNow = some a) : hostWaits a s = s := by
  rw [hostWaits, ← h]

/-- Settles O4: the waiting access and the access newly come to are both issued, and `issue` leaves the host in them. -/
theorem misalignedAccessIsStuck : Obligations.MisalignedAccessIsStuck := by
  intro s dir addr size data ts hturns hlo hhi hbad
  constructor
  · intro hnow
    rw [step_of_waiting hturns hnow, issue_not_admitted dir data _ hlo hhi hbad]
    exact congrArg _ (hostWaits_of_waiting hnow)
  · intro rest hnow hprog
    rw [step_of_access hturns hnow hprog, issue_not_admitted dir data _ hlo hhi hbad, hostWaits]

end Sys2Proof.Machine
end

section
/-! What SET does in each of its cases, and the pixels it reads (43_driver R162 to R164): O38. -/

namespace Sys2Proof.Machine

/-! ### The pixel array -/

/-- Pixel `p` is the three bytes from `3 * p` on (R56). -/
theorem pixelsOf_getElem? {l : List Byte} {p : Nat} {r g b : Byte} (hr : l[3 * p]? = some r)
    (hg : l[3 * p + 1]? = some g) (hb : l[3 * p + 2]? = some b) : (pixelsOf l)[p]? = some ⟨r, g, b⟩ := by
  induction p generalizing l with
  | zero =>
    match l, hr, hg, hb with
    | _ :: _ :: _ :: _, rfl, rfl, rfl => rfl
  | succ p ih =>
    match l, hr, hg, hb with
    | _ :: _ :: _ :: _, hr, hg, hb => exact ih hr hg hb

/-- Pixel `p` of the frame that SET reads is at FRAME_ADDR + 3 * p (R56, R162). -/
theorem framePixels_getElem? (s : State) {p : Nat} (hp : p < s.cfg.n) :
    (framePixels s)[p]? = some ⟨readByte s.mem (s.frameAddr.toNat + 3 * p),
      readByte s.mem (s.frameAddr.toNat + 3 * p + 1), readByte s.mem (s.frameAddr.toNat + 3 * p + 2)⟩ :=
  pixelsOf_getElem? (memRead_getElem? _ _ _ _ (by omega)) (memRead_getElem? _ _ _ _ (by omega))
    (memRead_getElem? _ _ _ _ (by omega))

/-! ### The cases of SET -/

section
variable {s : State}

theorem setHolds_iff : setHolds s = true ↔ s.started = true ∧ s.backState ≠ .free := by simp [setHolds]

theorem setHolds_eq_false_iff : setHolds s = false ↔ s.started = false ∨ s.backState = .free := by
  rw [← Bool.not_eq_true, setHolds_iff, not_and_or, Bool.not_eq_true, not_ne_iff]

theorem memReadable_iff {c : Cfg} {a n : Nat} :
    memReadable c a n = true ↔ memOK c a n = true ∧ a + n ≤ 2 ^ 32 := by simp [memReadable]

theorem memReadable_eq_false_iff {c : Cfg} {a n : Nat} :
    memReadable c a n = false ↔ memOK c a n = false ∨ 2 ^ 32 < a + n := by
  rw [← Bool.not_eq_true, memReadable_iff, not_and_or, Bool.not_eq_true, not_le]

theorem exec_set (hfault : s.fault = none) : exec .set s = .next (setBody s) := command_run _ _ _ hfault

/-- A wrong count faults, whatever else holds (R163). -/
theorem setBody_of_count_ne (hcount : s.frameCount.toNat ≠ s.cfg.n) : setBody s = raise .countMismatch s := by
  rcases setBody_cases s with ⟨_, h⟩ | ⟨hn, _⟩ | ⟨hn, _⟩
  · exact h
  · exact absurd hn hcount
  · exact absurd hn hcount

/-- A hold and an unreadable array leave the host waiting in the access (R164, R52). -/
theorem setBody_of_waits (hcount : s.frameCount.toNat = s.cfg.n)
    (hwait : setHolds s = true ∨ memReadable s.cfg s.frameAddr.toNat (3 * s.cfg.n) = false) :
    setBody s = hostWaits (cmdAccess 0xA) s := by
  rcases setBody_cases s with ⟨hn, _⟩ | ⟨_, _, h⟩ | ⟨_, hholds, hread, _⟩
  · exact absurd hcount hn
  · exact h
  · simp [hholds, hread] at hwait

/-- With the right count, no hold and a readable array SET completes (R162). -/
theorem setBody_of_completes (hcount : s.frameCount.toNat = s.cfg.n) (hholds : setHolds s = false)
    (hread : memReadable s.cfg s.frameAddr.toNat (3 * s.cfg.n) = true) : setBody s = setFrame (framePixels s) s := by
  rcases setBody_cases s with ⟨hn, _⟩ | ⟨_, hwait, _⟩ | ⟨_, _, _, h⟩
  · exact absurd hcount hn
  · simp [hholds, hread] at hwait
  · exact h

end

/-- Settles O38: case by case, with the pixels that `framePixels_getElem?` finds at FRAME_ADDR. -/
theorem setOutcome : Obligations.SetOutcome := by
  intro s hfault
  rw [exec_set hfault]
  refine ⟨fun hcount => ?_, fun hcount => ⟨fun hholds => ?_, fun hfree => ⟨fun hunreadable => ?_, fun hok hfits => ?_⟩⟩⟩
  · rw [setBody_of_count_ne hcount, raise_eq, hfault, Option.getD_none]
  · exact congrArg _ (setBody_of_waits hcount (.inl (setHolds_iff.mpr hholds)))
  · exact congrArg _ (setBody_of_waits hcount (.inr (memReadable_eq_false_iff.mpr hunreadable)))
  · refine ⟨framePixels s, framePixels_length s, fun p => framePixels_getElem? s, ?_⟩
    rw [setBody_of_completes hcount (setHolds_eq_false_iff.mpr hfree) (memReadable_iff.mpr ⟨hok, hfits⟩), setFrame]

end Sys2Proof.Machine
end

section
/-! What a read of every offset returns (40_bus_access R91, R93): O14. -/

namespace Sys2Proof.Machine

/-- An offset above the last register reads as 0 (R93). -/
theorem readReg_reserved {off : BitVec 12} (h : 0x44 ≤ off.toNat) (s : State) : readReg off s = 0 := by
  unfold readReg
  split
  any_goals omega
  rfl

/-- Settles O14: an aligned read returns what `readReg` finds, register by register, and 0 above them. -/
theorem readsReturnRegisters : Obligations.ReadsReturnRegisters := by
  intro s
  constructor
  · simp only [List.forall_mem_cons, List.not_mem_nil, false_imp_iff, implies_true, and_true]
    and_intros <;> exact exec_rd_aligned _ s rfl
  · intro off halign hoff
    rw [exec_rd_aligned off s ((alignedOff_iff off).mpr halign), readReg_reserved hoff]

end Sys2Proof.Machine
end

section
/-! The decoder and the encoder undo each other, and what a command word selects is what a write of it performs
(30_encoding R70 to R75, 40_bus_access R94): O1, O2, O5, O6, O7. -/

namespace Sys2Proof

/-! ### Command words -/

/-- A command word decodes to a well-formed instruction, and that instruction's access carries the word (R72, R73). -/
theorem decodeCommand_wf_encode (w : Word) :
    (decodeCommand w).wf = true ∧ encode (decodeCommand w) = cmdAccess w := by
  rw [decodeCommand_eq]
  split
  case h_11 =>
    simp only [imp_false] at *
    exact ⟨(illegalWord_iff w).mpr (by omega), rfl⟩
  all_goals exact ⟨rfl, congrArg cmdAccess (BitVec.eq_of_toNat_eq (Eq.symm ‹_›))⟩

/-- No command has an illegal word (R73, R75). -/
theorem decodeCommand_of_illegalWord {w : Word} (h : illegalWord w = true) : decodeCommand w = .illegal w := by
  rw [illegalWord_iff] at h
  rw [decodeCommand_eq]
  split
  case h_11 => rfl
  all_goals omega

/-- A word decodes to an illegal instruction only if it is itself illegal, and then to its own (R75). -/
theorem decodeCommand_eq_illegal_iff {w v : Word} : decodeCommand w = .illegal v ↔ v = w ∧ illegalWord w = true := by
  constructor
  · intro h
    have ⟨hwf, henc⟩ := decodeCommand_wf_encode w
    rw [h] at hwf henc
    obtain rfl : v = w := congrArg Access.data henc
    exact ⟨rfl, hwf⟩
  · rintro ⟨rfl, h⟩
    exact decodeCommand_of_illegalWord h

/-! ### Bus accesses -/

/-- The offset of a register lies inside the block (R71). -/
theorem not_lt_setWidth_off (off : BitVec 12) : ¬ 0xFFF#32 < off.setWidth 32 := by
  have := off.isLt
  rw [BitVec.lt_def, BitVec.toNat_setWidth, BitVec.toNat_ofNat]
  omega

theorem setWidth_off_eq_zero_iff {off : BitVec 12} : off.setWidth 32 = 0#32 ↔ off = 0#12 := by
  have := off.isLt
  simp only [← BitVec.toNat_inj, BitVec.toNat_setWidth, BitVec.toNat_ofNat]
  omega

@[simp] theorem decodeAccess_cmdAccess (w : Word) : decodeAccess (cmdAccess w) = .ok (decodeCommand w) := rfl

theorem decodeAccess_write_off {off : BitVec 12} (data : Word) (h0 : off ≠ 0#12) (halign : alignedOff off = true) :
    decodeAccess ⟨.write, off.setWidth 32, 4, data⟩ = .ok (.wr off data) := by
  simp [decodeAccess_mk, not_lt_setWidth_off, setWidth_off_eq_zero_iff, h0, halign]

theorem decodeAccess_read_off {off : BitVec 12} (data : Word) (halign : alignedOff off = true) :
    decodeAccess ⟨.read, off.setWidth 32, 4, data⟩ = .ok (.rd off) := by
  simp [decodeAccess_mk, not_lt_setWidth_off, halign]

/-- An access that decodes is 4 bytes wide, at the aligned offset of a register (R58, R71). -/
theorem admitted_of_decodeAccess {dir : Dir} {off : Word} {size : Nat} {data : Word} {i : Instr}
    (h : decodeAccess ⟨dir, off, size, data⟩ = .ok i) :
    size = 4 ∧ ∃ reg : BitVec 12, off = reg.setWidth 32 ∧ alignedOff reg = true := by
  simp only [decodeAccess_mk, ite_eq_iff, reduceCtorEq, and_false, false_or] at h
  obtain ⟨hin, hsize, halign, -⟩ := h
  refine ⟨not_not.mp hsize, off.setWidth 12, BitVec.eq_of_toNat_eq ?_, Bool.not_eq_false _ ▸ halign⟩
  rw [BitVec.lt_def, BitVec.toNat_ofNat] at hin
  simp only [BitVec.toNat_setWidth]
  omega

/-- Everything an access that decodes can be: a write to CMD, an aligned write to another offset, or an aligned read. -/
theorem decodeAccess_cases {a : Access} {i : Instr} (h : decodeAccess a = .ok i) :
    (∃ w, a = cmdAccess w ∧ i = decodeCommand w) ∨
    (∃ off data, off ≠ 0#12 ∧ alignedOff off = true ∧ a = ⟨.write, off.setWidth 32, 4, data⟩ ∧ i = .wr off data) ∨
    (∃ off data, alignedOff off = true ∧ a = ⟨.read, off.setWidth 32, 4, data⟩ ∧ i = .rd off) := by
  obtain ⟨dir, _, _, data⟩ := a
  obtain ⟨rfl, reg, rfl, halign⟩ := admitted_of_decodeAccess h
  cases dir with
  | read =>
    rw [decodeAccess_read_off data halign] at h
    cases h
    exact .inr (.inr ⟨reg, data, halign, rfl, rfl⟩)
  | write =>
    by_cases h0 : reg = 0#12
    · subst h0
      cases h
      exact .inl ⟨data, rfl, rfl⟩
    · rw [decodeAccess_write_off data h0 halign] at h
      cases h
      exact .inr (.inl ⟨reg, data, h0, halign, rfl, rfl⟩)

/-! ### The two directions -/

/-- Settles O1: the ten commands by their words (R73), the other three by what the decoder answers on their accesses. -/
theorem decodeOfEncode : Obligations.DecodeOfEncode := by
  intro i hwf
  cases i with
  | rgb2hsv => exact decode_rgb2hsv
  | hsv2rgb => exact decode_hsv2rgb
  | powc => exact decode_powc
  | logc => exact decode_logc
  | toi => exact decode_toi
  | fromi => exact decode_fromi
  | blend => exact decode_blend
  | chbright => exact decode_chbright
  | start => exact decode_start
  | set => exact decode_set
  | illegal w => rw [encode, decodeAccess_cmdAccess, decodeCommand_of_illegalWord hwf]
  | wr off data =>
    obtain ⟨h0, halign⟩ : off ≠ 0#12 ∧ alignedOff off = true := by simpa [Instr.wf] using hwf
    exact decodeAccess_write_off data h0 halign
  | rd off => exact decodeAccess_read_off 0 hwf

/-- Settles O2: the three kinds of access that decode, each by what it decodes to. -/
theorem encodeOfDecode : Obligations.EncodeOfDecode := by
  intro a i h
  rcases decodeAccess_cases h with ⟨w, rfl, rfl⟩ | ⟨off, data, h0, halign, rfl, rfl⟩ | ⟨off, data, halign, rfl, rfl⟩
  · exact decodeCommand_wf_encode w
  · exact ⟨by simp [Instr.wf, h0, halign], rfl⟩
  · exact ⟨halign, rfl⟩

/-- Settles O7: each written-out access is the encoding of a well-formed instruction, so O1 decodes it. -/
theorem wordsFromTheSpec : Obligations.WordsFromTheSpec :=
  ⟨decodeOfEncode .rgb2hsv rfl, decodeOfEncode .set rfl, decodeOfEncode (.wr 0x08 0x00C86432) rfl,
    decodeOfEncode (.rd 0x2C) rfl, decodeOfEncode (.illegal 0) rfl⟩

end Sys2Proof

namespace Sys2Proof.Machine

/-! ### The command that a write to CMD performs -/

/-- `dispatch` matches the same words as the decoder (R73, R94). -/
theorem dispatch_eq_exec_decodeCommand (d : Word) (s : State) : dispatch d s = exec (decodeCommand d) s := by
  rw [dispatch, decodeCommand_eq]
  match d.toNat with
  | 0 | 1 | 2 | 3 | 4 | 5 | 6 | 7 | 8 | 9 | 10 | _ + 11 => rfl

/-- Settles O6: a write to CMD is `dispatch` of its word. -/
theorem commandWriteIsCommand : Obligations.CommandWriteIsCommand := fun d s =>
  (exec_wr_cmd d s).trans (dispatch_eq_exec_decodeCommand d s)

/-- An illegal command word latches ILLEGAL_CMD and changes nothing else (R75). -/
theorem exec_illegal (w : Word) {s : State} (hfault : s.fault = none) :
    exec (.illegal w) s = .next { s with fault := some .illegalCmd } := by
  rw [exec, execIllegal, command_run _ _ _ hfault, raise_eq, hfault, Option.getD_none]

/-- Settles O5: `decodeCommand_eq_illegal_iff` says which words are illegal, and `exec_illegal` what such a word does. -/
theorem illegalWordsFault : Obligations.IllegalWordsFault := by
  intro w
  rw [← illegalWord_iff]
  refine ⟨fun hillegal => ?_, fun hlegal v hv => ?_⟩
  · have hdecode := decodeCommand_of_illegalWord hillegal
    refine ⟨hdecode, fun s hfault => ⟨?_, exec_illegal w hfault⟩⟩
    rw [commandWriteIsCommand w s, hdecode, exec_illegal w hfault]
  · have hillegal := (illegalWord_iff w).mp (decodeCommand_eq_illegal_iff.mp hv).2
    omega

end Sys2Proof.Machine
end

section
/-! Bus accesses: what a step of HOST runs, what a write to every offset does, and what of it a faulted block still does
(40_bus_access R90 to R97, 60_exceptions R193): O8, O16, O17, O19. -/

namespace Sys2Proof.Machine

/-! ### The access of a HOST step -/

/-- An access that decodes runs its instruction, and is no longer the host's (R94, R97). -/
theorem issue_of_decode {a : Access} {i : Instr} (s : State) (hdecode : decodeAccess a = .ok i) :
    issue a s = exec i { s with hostNow := none } := by
  simp only [issue, hdecode]

/-- Settles O8: a HOST step issues the access it waits in or comes to, and that access decodes. -/
theorem stepRunsDecodedAccess : Obligations.StepRunsDecodedAccess := by
  intro s a i ts hturns hdecode
  constructor
  · intro hnow
    rw [step_of_waiting hturns hnow, issue_of_decode _ hdecode]
  · intro rest hnow hprog
    rw [step_of_access hturns hnow hprog, issue_of_decode _ hdecode]

/-! ### Writes -/

/-- A write outside the seven operand registers changes nothing (R90, R92). -/
theorem writeReg_not_operand {off : BitVec 12} (hoff : off.toNat ∉ [0x08, 0x0C, 0x10, 0x14, 0x18, 0x20, 0x24])
    (d : Word) (s : State) : writeReg off d s = s := by
  simp only [List.mem_cons, List.not_mem_nil, or_false, not_or] at hoff
  unfold writeReg
  split
  any_goals omega
  rfl

/-- An aligned write to an offset that is neither CMD nor an operand register changes no state (R90, R92). -/
theorem exec_wr_ignored {off : BitVec 12} (halign : off.toNat % 4 = 0)
    (hoff : off.toNat ∉ [0x00, 0x08, 0x0C, 0x10, 0x14, 0x18, 0x20, 0x24]) (d : Word) (s : State) :
    exec (.wr off d) s = .next s := by
  obtain ⟨hcmd, hoperand⟩ := not_or.mp (List.mem_cons.not.mp hoff)
  rw [exec_wr_reg off d s ((alignedOff_iff off).mpr halign) (by rintro rfl; exact hcmd rfl),
    writeReg_not_operand hoperand]

/-- Settles O16: CMD dispatches, the operand registers store, and `exec_wr_ignored` covers every other offset. -/
theorem writesStoreOperands : Obligations.WritesStoreOperands := by
  intro s d
  refine ⟨exec_wr_cmd d s, ?_, ?_, ?_, ?_, ?_, ?_, ?_, fun off halign hoff => exec_wr_ignored halign hoff d s⟩
  all_goals exact exec_wr_reg _ d s rfl (by decide)

/-- Settles O17: the read-only registers and the reserved offsets are neither CMD nor operand registers. -/
theorem readOnlyWritesIgnored : Obligations.ReadOnlyWritesIgnored := by
  intro s d off halign hoff
  simp only [List.mem_cons, List.not_mem_nil, or_false] at hoff
  refine exec_wr_ignored halign ?_ d s
  simp only [List.mem_cons, List.not_mem_nil, or_false]
  omega

/-! ### The faulted block -/

/-- A faulted block has no enabled engine or handler (R193), so a turn of one changes nothing. -/
theorem agentStep_of_fault {s : State} {c : Cause} (hfault : s.fault = some c) {t : Turn} (ht : t ≠ .host) :
    agentStep t s = .next s := by
  have htx : txDoneEnabled s = false := by simp [txDoneEnabled, hfault]
  have hcopy : copyDoneEnabled s = false := by simp [copyDoneEnabled, hfault]
  cases t with
  | host => exact absurd rfl ht
  | ctrl => exact congrArg _ (ctrlStep_not_enabled s (by simp [ctrlEnabled, hfault]))
  | txdma => simp [agentStep, txDone, htx]
  | cpydma => simp [agentStep, copyDone, hfault]
  | dmaerr => simp [agentStep, dmaErr, dmaErrEnabled, htx, hcopy]

/-- While faulted a command leaves the host waiting in its own access (R94, R95). -/
theorem exec_command_of_fault {s : State} {c : Cause} (hfault : s.fault = some c) {i : Instr}
    (hi : isCommand i = true) : exec i s = .next (hostWaits (encode i) s) := by
  obtain ⟨w, body, henc, hexec⟩ := exec_isCommand i s (by rintro _ _ rfl; cases hi) (by rintro _ rfl; cases hi)
  rw [hexec, henc, command_faulted w body s c hfault]

/-- A data word written to CMD selects a command, legal or not, never a bus access (R70). -/
theorem isCommand_decodeCommand (w : Word) : isCommand (decodeCommand w) = true := by
  rw [decodeCommand_eq]
  split <;> rfl

/-- Settles O19: agents by `agentStep_of_fault`, commands by `exec_command_of_fault`; a write to CMD is the command of its
word, and the other bus accesses do not look at the fault. -/
theorem faultedBlockIsHalted : Obligations.FaultedBlockIsHalted := by
  intro s c hfault
  refine ⟨fun t => agentStep_of_fault hfault, fun i => exec_command_of_fault hfault, fun d => ?_,
    fun off halign => exec_rd_aligned off s ((alignedOff_iff off).mpr halign),
    fun off d halign h0 => exec_wr_reg off d s ((alignedOff_iff off).mpr halign) h0⟩
  rw [commandWriteIsCommand d s, exec_command_of_fault hfault (isCommand_decodeCommand d),
    (decodeCommand_wf_encode d).2, hostWaits]

end Sys2Proof.Machine
end

section
/-! A held SET in a run that does not fault: the hold ends, and the SET completes (43_driver R164, R173; 70_reset R226):
O41. -/

namespace Sys2Proof.Machine

/-! ### What only HOST writes -/

/-- `t` has the configuration, the memory, the operands, the access, the count of frames and the start of `s`. -/
def SameHostSide (s t : State) : Prop :=
  KeepsCfgMem s t ∧ SameOperands s t ∧ t.hostNow = s.hostNow ∧ t.setCount = s.setCount ∧ t.started = s.started

theorem SameHostSide.refl (s : State) : SameHostSide s s := by simp [SameHostSide, KeepsCfgMem, SameOperands]

theorem SameHostSide.trans {s t u : State} (h : SameHostSide s t) (h' : SameHostSide t u) : SameHostSide s u := by
  simp_all [SameHostSide, KeepsCfgMem, SameOperands]

theorem sameHostSide_raise (c : Cause) (s : State) : SameHostSide s (raise c s) := by
  simp [SameHostSide, KeepsCfgMem, SameOperands]

theorem sameHostSide_txcHandler (i : Front) (s : State) : SameHostSide s (txcHandler i s) := by
  rcases txcHandler_cases i s with ⟨_, _, h⟩ | ⟨_, _, h⟩ | ⟨_, _, _, h⟩ | ⟨_, _, h⟩ <;> rw [h]
  · exact sameHostSide_raise _ s
  · simp [SameHostSide, KeepsCfgMem, SameOperands]
  · simp [SameHostSide, KeepsCfgMem, SameOperands]
  · exact SameHostSide.refl s

theorem sameHostSide_ctrlStep (s : State) : SameHostSide s (ctrlStep s) := by
  rcases ctrlStep_cases s with h | ⟨_, _, h⟩ | ⟨i, _, _, _, h⟩ <;> rw [h]
  · exact SameHostSide.refl s
  · exact SameHostSide.refl s
  · exact sameHostSide_txcHandler i s

theorem sameHostSide_txDone (s : State) : SameHostSide s (txDone s) := by
  rcases txDone_cases s with h | ⟨c, h⟩ | ⟨_, _, _, _, h⟩ <;> rw [h]
  · exact SameHostSide.refl s
  · exact sameHostSide_raise c s
  · exact SameHostSide.refl s

theorem sameHostSide_copyDone (s : State) : SameHostSide s (copyDone s) := by
  rcases copyDone_cases s with h | ⟨k, _, _, h⟩ <;> rw [h]
  · exact SameHostSide.refl s
  · simp [SameHostSide, KeepsCfgMem, SameOperands]

theorem sameHostSide_dmaErr (s : State) : SameHostSide s (dmaErr s) := by
  rcases dmaErr_cases s with h | ⟨_, h⟩ <;> rw [h]
  · exact SameHostSide.refl s
  · exact sameHostSide_raise _ s

section
variable {t : Turn} {s u : State}

theorem agentStep_sameHostSide (hstep : agentStep t s = .next u) (ht : t ≠ .host) : SameHostSide s u := by
  cases t with
  | host => exact absurd rfl ht
  | ctrl => cases hstep; exact sameHostSide_ctrlStep s
  | txdma => cases hstep; exact sameHostSide_txDone s
  | cpydma => cases hstep; exact sameHostSide_copyDone s
  | dmaerr => cases hstep; exact sameHostSide_dmaErr s

/-- A step of an agent is a step of the machine in the state whose schedule has it next. -/
theorem agentStep_driverStep (hstep : agentStep t s = .next u) : DriverStep { s with turns := t :: s.turns } u :=
  step_driverStep hstep

/-- No agent but HOST makes a Free back buffer anything else (R38). -/
theorem agentStep_backState_free (hstep : agentStep t s = .next u) (ht : t ≠ .host) (hfree : s.backState = .free) :
    u.backState = .free := by
  cases agentStep_driverStep hstep with
  | quiet hsame => exact hsame.backState.trans hfree
  | start hturn => exact absurd hturn ht
  | frame _ hturn => exact absurd hturn ht
  | txDone _ _ _ _ _ hsame => exact hsame.backState.trans hfree
  | copyDone k _ _ _ hsame => simp [hsame.backState, copied, hfree]
  | copyComplete _ _ _ hsame => simp [hsame.backState, cpcHandler, hfree]
  | copyFromBack i _ hready => exact absurd (hready.symm.trans hfree) nofun
  | copyFromFront i _ _ _ _ hsame => simp [hsame.backState, copyBegun, hfree]
  | noCopy i _ _ _ hsame => exact hsame.backState.trans hfree

/-- Only a SET or START of HOST makes a SET wait again (R164). -/
theorem agentStep_setHolds (hstep : agentStep t s = .next u) (ht : t ≠ .host) (hholds : setHolds s = false) :
    setHolds u = false := by
  obtain ⟨_, _, _, _, hstarted⟩ := agentStep_sameHostSide hstep ht
  rw [setHolds_eq_false_iff] at hholds ⊢
  exact hholds.imp hstarted.trans (agentStep_backState_free hstep ht)

/-- The step of every agent keeps the invariant. -/
theorem Inv.of_agentStep (h : Inv s) (hstep : agentStep t s = .next u) : Inv u :=
  Inv.step (s := { s with turns := t :: s.turns }) (h.of_sameDriver (SameDriver.refl _) rfl h.memWf) hstep

/-- A started ring stays started (R39). -/
theorem agentStep_started (hstep : agentStep t s = .next u) (hstarted : s.started = true) : u.started = true := by
  by_cases ht : t = .host
  · subst ht
    obtain ⟨_, ⟨hsame, _⟩, _⟩ := hostStep_started s u hstarted hstep
    exact hsame.trans hstarted
  · obtain ⟨_, _, _, _, hsame⟩ := agentStep_sameHostSide hstep ht
    exact hsame.trans hstarted

end

/-! ### What a hold waits for -/

/-- The agent whose step a hold waits for: the handler of a finished copy (R173), the copy in flight (R172), the handler of
a sent buffer (R170), or the end of the buffer being sent (R168). -/
def awaited (s : State) : Turn :=
  if s.cpcPending then .ctrl
  else if s.copy.isSome then .cpydma
  else if s.txcPending.isSome then .ctrl
  else .txdma

/-- How far the next transmit-complete handling is: farthest while a copy is in flight, then while that copy waits for its
handler, then until the buffer being sent ends, and nearest once the event of that is pending. -/
def eventRank (s : State) : Nat :=
  if s.cpcPending then 2
  else if s.copy.isSome then 3
  else if s.txcPending.isSome then 0
  else 1

/-- How far the end of a hold is: a Ready back buffer waits for a transmit-complete handling, and then, Copying, for the copy
that this began and for its handler (R170, R172, R173). -/
def holdRank (s : State) : Nat :=
  match s.backState with
  | .free => 0
  | .copying => 1 + eventRank s
  | .readyToCopy => 5 + eventRank s

/-- Where an agent's step is enabled (R168, R169, R172, R178); HOST always is. -/
def agentEnabled : Turn → State → Bool
  | .host => fun _ => true
  | .ctrl => ctrlEnabled
  | .txdma => txDoneEnabled
  | .cpydma => copyDoneEnabled
  | .dmaerr => dmaErrEnabled

section
variable {s t : State}

theorem agentEnabled_awaited (hfault : s.fault = none) (hstarted : s.started = true) :
    agentEnabled (awaited s) s = true := by
  unfold awaited
  split_ifs with hcpc hcopy htxc
  · simp [agentEnabled, ctrlEnabled, hfault, hcpc]
  · simp [agentEnabled, copyDoneEnabled, hfault, hcopy]
  · simp [agentEnabled, ctrlEnabled, hfault, htxc]
  · simp [agentEnabled, txDoneEnabled, hfault, hstarted]

theorem ne_awaited {turn : Turn} (hturn : turn = .host ∨ turn = .dmaerr) : turn ≠ awaited s := by
  unfold awaited
  rcases hturn with rfl | rfl <;> split_ifs <;> decide

theorem cpydma_ne_awaited (hcopy : s.copy = none) : Turn.cpydma ≠ awaited s := by
  simp only [awaited, hcopy]
  split_ifs <;> simp_all

/-- An agent that a hold waits for is one that R226 is fair to. -/
theorem FairRun.fair_awaited {sched : Nat → Turn} {r : Nat → State} (h : FairRun sched r) (s : State) :
    WeaklyFair (awaited s) (agentEnabled (awaited s)) sched r := by
  unfold awaited
  split_ifs
  · exact h.ctrl
  · exact h.cpydma
  · exact h.ctrl
  · exact h.txdma

theorem awaited_congr (hsame : SameEngines s t) : awaited t = awaited s := by
  obtain ⟨-, -, -, -, -, -, htxc, hcpc, hcopy⟩ := hsame
  simp only [awaited, htxc, hcpc, hcopy]

theorem holdRank_congr (hsame : SameEngines s t) (hback : t.backState = s.backState) : holdRank t = holdRank s := by
  obtain ⟨-, -, -, -, -, -, htxc, hcpc, hcopy⟩ := hsame
  simp only [holdRank, eventRank, htxc, hcpc, hcopy, hback]

/-- `t` is one step further than `s`, where the agent `turn` has stepped: nearer to the end of the hold if the hold waits for
that agent, and as far from it otherwise. -/
def HoldStep (turn : Turn) (s t : State) : Prop :=
  (turn = awaited s ∧ holdRank t < holdRank s) ∨ (turn ≠ awaited s ∧ awaited t = awaited s ∧ holdRank t = holdRank s)

theorem HoldStep.of_same {turn : Turn} (hturn : turn ≠ awaited s) (hsame : SameEngines s t)
    (hback : t.backState = s.backState) : HoldStep turn s t :=
  .inr ⟨hturn, awaited_congr hsame, holdRank_congr hsame hback⟩

theorem holdRank_eq_zero_iff : holdRank s = 0 ↔ s.backState = .free := by
  cases hback : s.backState <;> simp [holdRank, hback]

theorem backState_ne_free_of_holdRank_eq (hrank : holdRank t = holdRank s) (hheld : s.backState ≠ .free) :
    t.backState ≠ .free := by
  rwa [ne_eq, ← holdRank_eq_zero_iff, hrank, holdRank_eq_zero_iff]

theorem eventRank_le_one (hcpc : s.cpcPending = false) (hcopy : s.copy = none) : eventRank s ≤ 1 := by
  simp only [eventRank, hcpc, hcopy]
  split_ifs <;> simp_all

/-- A hold of a running block that waits for `turn` and is `n` from its end. -/
def HoldAt (turn : Turn) (n : Nat) (s : State) : Prop :=
  s.fault = none ∧ s.started = true ∧ awaited s = turn ∧ holdRank s = n

theorem HoldAt.enabled {turn : Turn} {n : Nat} (h : HoldAt turn n s) : agentEnabled turn s = true := by
  obtain ⟨hfault, hstarted, rfl, -⟩ := h
  exact agentEnabled_awaited hfault hstarted

/-- A back buffer that is not Free waits for a handling, where no copy is in flight or complete (R173). -/
theorem backState_eq_readyToCopy (hinv : Inv s) (hheld : s.backState ≠ .free) (hcopy : s.copy = none)
    (hcpc : s.cpcPending = false) : s.backState = .readyToCopy := by
  cases hback : s.backState with
  | free => exact absurd hback hheld
  | copying => exact absurd hback (hinv.backState_ne_copying hcopy hcpc)
  | readyToCopy => rfl

/-- The copy-complete handler ends the hold of a Copying back buffer, and makes way for the next handling before a Ready one
(R169, R173). -/
theorem holdStep_cpcHandler (hinv : Inv s) (hheld : s.backState ≠ .free) (hcpc : s.cpcPending = true) :
    HoldStep .ctrl s (cpcHandler s) := by
  refine .inl ⟨by simp [awaited, hcpc], ?_⟩
  have hevent : eventRank s = 2 := by simp [eventRank, hcpc]
  have hhandled : eventRank (cpcHandler s) ≤ 1 := eventRank_le_one rfl (hinv.copy_of_cpcPending hcpc)
  cases hback : s.backState with
  | free => exact absurd hback hheld
  | copying => simp [holdRank, cpcHandler, hback]
  | readyToCopy =>
    have hback' : (cpcHandler s).backState = .readyToCopy := by simp [cpcHandler, hback]
    simp only [holdRank, hback, hback']
    omega

/-- The transmit-complete handler begins the copy of a Ready back buffer (R170). -/
theorem holdStep_txcHandler (hready : s.backState = .readyToCopy) (hcpc : s.cpcPending = false) (hcopy : s.copy = none)
    {i : Front} (htxc : s.txcPending = some i) : HoldStep .ctrl s (txcHandler i s) :=
  .inl ⟨by simp [awaited, hcpc, hcopy, htxc],
    by simp [txcHandler, hready, hcpc, hcopy, htxc, holdRank, eventRank]⟩

/-- CTRL handles the event that a hold waits for; with a copy in flight, or no event, it has no step (R169, R174). -/
theorem holdStep_ctrl (hinv : Inv s) (hfault : s.fault = none) (hheld : s.backState ≠ .free) :
    HoldStep .ctrl s (ctrlStep s) := by
  have hidle (henabled : ctrlEnabled s = false) (hturn : Turn.ctrl ≠ awaited s) : HoldStep .ctrl s (ctrlStep s) := by
    rw [ctrlStep_not_enabled s henabled]
    exact .of_same hturn (SameDriver.refl s).1 rfl
  cases hcpc : s.cpcPending with
  | true =>
    rw [show ctrlStep s = cpcHandler s by simp [ctrlStep, hfault, hcpc]]
    exact holdStep_cpcHandler hinv hheld hcpc
  | false =>
    cases hcopy : s.copy with
    | some k =>
      obtain ⟨_, _, htxc, _⟩ := hinv.copy k hcopy
      exact hidle (by simp [ctrlEnabled, hcpc, htxc]) (by simp [awaited, hcpc, hcopy])
    | none =>
      cases htxc : s.txcPending with
      | none => exact hidle (by simp [ctrlEnabled, hcpc, htxc]) (by simp [awaited, hcpc, hcopy, htxc])
      | some i =>
        rw [show ctrlStep s = txcHandler i s by simp [ctrlStep, hfault, hcpc, htxc]]
        exact holdStep_txcHandler (backState_eq_readyToCopy hinv hheld hcopy hcpc) hcpc hcopy htxc

/-- The end of the buffer being sent is what a hold waits for, unless a finished copy waits for its handler (R168). -/
theorem holdStep_bufferSent (hheld : s.backState ≠ .free) (htxc : s.txcPending = none) (hcopy : s.copy = none) :
    HoldStep .txdma s (bufferSent s) := by
  cases hcpc : s.cpcPending with
  | true =>
    exact .inr ⟨by simp [awaited, hcpc], by simp [awaited, bufferSent, hcpc],
      by simp [holdRank, eventRank, bufferSent, hcpc]⟩
  | false =>
    refine .inl ⟨by simp [awaited, hcpc, hcopy, htxc], ?_⟩
    cases hback : s.backState with
    | free => exact absurd hback hheld
    | copying | readyToCopy => simp [holdRank, eventRank, bufferSent, hback, hcpc, hcopy, htxc]

/-- The end of a copy in flight is what a hold waits for (R172). -/
theorem holdStep_copied (hinv : Inv s) (hheld : s.backState ≠ .free) {k : Copy} (hcopy : s.copy = some k) :
    HoldStep .cpydma s (copied k s) := by
  obtain ⟨_, _, _, hcpc, _⟩ := hinv.copy k hcopy
  refine .inl ⟨by simp [awaited, hcpc, hcopy], ?_⟩
  cases hback : s.backState with
  | free => exact absurd hback hheld
  | copying | readyToCopy => simp [holdRank, eventRank, copied, hback, hcpc, hcopy]

/-! ### The hold ends -/

variable {sched : Nat → Turn} {r : Nat → State} (hc : Continuation s sched r)
include hc

theorem Continuation.inv (hinv : Inv s) (k : Nat) : Inv (r k) := by
  induction k with
  | zero => rw [hc.start]; exact hinv
  | succ k ih => exact ih.of_agentStep (hc.fair.run k)

theorem Continuation.started (hstarted : s.started = true) (k : Nat) : (r k).started = true := by
  induction k with
  | zero => rw [hc.start]; exact hstarted
  | succ k ih => exact agentStep_started (hc.fair.run k) ih

variable (hff : FaultFree r)
include hff

/-- Every step of a run that does not fault leaves a hold as it is or, where it waits for the agent, shortens it. -/
theorem Continuation.holdStep {j : Nat} (hinv : Inv (r j)) (hstarted : (r j).started = true)
    (hheld : (r j).backState ≠ .free) : HoldStep (sched j) (r j) (r (j + 1)) := by
  rcases hc.step_cases hff j with ⟨hturn, hstep⟩ | ⟨hturn, hstep⟩ | ⟨hturn, hstep⟩ | ⟨hturn, hstep⟩ | ⟨hturn, hstep⟩ <;>
    rw [hturn]
  · obtain ⟨hengines, -, hback⟩ := hostStep_started _ _ hstarted hstep
    obtain ⟨-, -, -, hback⟩ := hback hheld
    exact .of_same (ne_awaited (.inl rfl)) hengines hback
  · rw [hstep]; exact holdStep_ctrl hinv (hff j) hheld
  · rcases hstep with ⟨hunstarted, -⟩ | ⟨htxc, hcopy, hstep⟩
    · exact absurd (hstarted.symm.trans hunstarted) nofun
    · rw [hstep]; exact holdStep_bufferSent hheld htxc hcopy
  · rcases hstep with ⟨hcopy, hstep⟩ | ⟨k, hcopy, hstep⟩ <;> rw [hstep]
    · exact .of_same (cpydma_ne_awaited hcopy) (SameDriver.refl _).1 rfl
    · exact holdStep_copied hinv hheld hcopy
  · rw [hstep]; exact .of_same (ne_awaited (.inr rfl)) (SameDriver.refl _).1 rfl

/-- The agent that a hold waits for gets its turn, and until then the hold is as far from its end. -/
theorem Continuation.reaches_awaited (hinv : Inv s) (hstarted : s.started = true) {k : Nat}
    (hheld : (r k).backState ≠ .free) :
    ∃ j, sched j = awaited (r j) ∧ holdRank (r j) = holdRank (r k) := by
  have hruns := hc.started hstarted
  obtain ⟨j, -, hturn, -, -, ha, hrank⟩ := (hc.fair.fair_awaited (r k)).reaches (HoldAt (awaited (r k)) (holdRank (r k))) k
    ⟨hff k, hruns k, rfl, rfl⟩ (fun _ h => h.enabled) fun j ⟨_, _, ha, hrank⟩ hturn => by
      have hheld := backState_ne_free_of_holdRank_eq hrank hheld
      rcases hc.holdStep hff (hc.inv hinv j) (hruns j) hheld with ⟨hown, _⟩ | ⟨_, ha', hrank'⟩
      · exact absurd (hown.trans ha) hturn
      · exact ⟨hff _, hruns _, ha'.trans ha, hrank'.trans hrank⟩
  exact ⟨j, hturn.trans ha.symm, hrank⟩

/-- A hold ends: by induction on how far the hold is from its end, each awaited step being taken (R164, R173, R226). -/
theorem Continuation.hold_ends (hinv : Inv s) (hstarted : s.started = true) : ∃ k, (r k).backState = .free := by
  suffices h : ∀ n k, holdRank (r k) = n → ∃ j, (r j).backState = .free from h _ 0 rfl
  intro n
  induction n using Nat.strong_induction_on with
  | _ n ih =>
    intro k hk
    by_cases hheld : (r k).backState = .free
    · exact ⟨k, hheld⟩
    · obtain ⟨j, hturn, hrank⟩ := hc.reaches_awaited hff hinv hstarted hheld
      have hheld := backState_ne_free_of_holdRank_eq hrank hheld
      rcases hc.holdStep hff (hc.inv hinv j) (hc.started hstarted j) hheld with ⟨_, hless⟩ | ⟨hother, _⟩
      · exact ih _ (by omega) (j + 1) rfl
      · exact absurd hturn hother

end

/-! ### The SET completes -/

/-- The host waits in a SET with the right count and a readable array. -/
structure SetWaits (s : State) : Prop where
  now : s.hostNow = some ⟨.write, 0, 4, 0xA⟩
  count : s.frameCount.toNat = s.cfg.n
  readable : memReadable s.cfg s.frameAddr.toNat (3 * s.cfg.n) = true

section
variable {s t : State}

theorem SetWaits.of_sameHostSide (h : SetWaits s) (hsame : SameHostSide s t) : SetWaits t := by
  obtain ⟨⟨hcfg, -⟩, ⟨-, -, -, -, -, haddr, hcount⟩, hnow, -⟩ := hsame
  obtain ⟨now, count, readable⟩ := h
  constructor <;> simp only [hcfg, haddr, hcount, hnow] <;> assumption

theorem framePixels_congr (h : SameHostSide s t) : framePixels t = framePixels s := by
  obtain ⟨⟨hcfg, hmem⟩, ⟨-, -, -, -, -, haddr, -⟩, -⟩ := h
  simp only [framePixels, hcfg, hmem, haddr]

/-- A SET that holds leaves the host waiting in it, and nothing else changes (R164). -/
theorem SetWaits.issue_of_holds (h : SetWaits s) (hfault : s.fault = none) (hholds : setHolds s = true) :
    issue ⟨.write, 0, 4, 0xA⟩ s = .next s := by
  rw [issue_of_decode s decode_set]
  calc exec .set (hostIssued s.hostProg s)
    _ = .next (setBody (hostIssued s.hostProg s)) := exec_set hfault
    _ = .next (hostWaits (cmdAccess 0xA) s) := congrArg _ (setBody_of_waits h.count (.inl hholds))
    _ = .next s := congrArg _ (hostWaits_of_waiting h.now)

/-- A SET that does not hold completes (R97, R162). -/
theorem SetWaits.issue_of_not_holds (h : SetWaits s) (hfault : s.fault = none) (hholds : setHolds s = false) :
    issue ⟨.write, 0, 4, 0xA⟩ s = .next (setFrame (framePixels s) (hostIssued s.hostProg s)) := by
  rw [issue_of_decode s decode_set]
  calc exec .set (hostIssued s.hostProg s)
    _ = .next (setBody (hostIssued s.hostProg s)) := exec_set hfault
    _ = .next (setFrame (framePixels s) (hostIssued s.hostProg s)) :=
      congrArg _ (setBody_of_completes h.count hholds h.readable)

theorem SetWaits.hostStep_eq (h : SetWaits s) : hostStep s = issue ⟨.write, 0, 4, 0xA⟩ s := by
  simp only [hostStep, h.now]

section
variable {sched : Nat → Turn} {r : Nat → State} (hc : Continuation s sched r) (hff : FaultFree r) (hwaits : SetWaits s)
include hc hff hwaits

/-- As long as the back buffer holds it, the SET and all it reads stay as they are. -/
theorem Continuation.sameHostSide_of_held {k : Nat} (hheld : ∀ j < k, setHolds (r j) = true) : SameHostSide s (r k) := by
  induction k with
  | zero => rw [hc.start]; exact SameHostSide.refl s
  | succ k ih =>
    have hsame := ih fun j hj => hheld j (by omega)
    have hstep := hc.fair.run k
    by_cases hturn : sched k = .host
    · have hset := hwaits.of_sameHostSide hsame
      rw [hturn, agentStep, hset.hostStep_eq, hset.issue_of_holds (hff k) (hheld k (by omega))] at hstep
      rwa [← Host.Outcome.next.inj hstep]
    · exact hsame.trans (agentStep_sameHostSide hstep hturn)

/-- Once its hold has ended, a SET completes at the host's next turn (R97). -/
theorem Continuation.set_completes (hfair : WeaklyFair .host (fun u => !setHolds u) sched r)
    (hends : ∃ k, setHolds (r k) = false) :
    ∃ k, (r k).hostNow = none ∧ (r k).setCount = s.setCount + 1 ∧ (r k).bufBack = encFrame s.cfg (framePixels s) := by
  have hsame := hc.sameHostSide_of_held hff hwaits fun j hj => by simpa using Nat.find_min hends hj
  obtain ⟨j, -, hturn, hsame, hholds⟩ := hfair.reaches (fun u => SameHostSide s u ∧ setHolds u = false) (Nat.find hends)
    ⟨hsame, Nat.find_spec hends⟩ (fun u h => by simp [h.2]) fun j ⟨hsame, hholds⟩ hturn =>
      have hstep := hc.fair.run j
      ⟨hsame.trans (agentStep_sameHostSide hstep hturn), agentStep_setHolds hstep hturn hholds⟩
  have hset := hwaits.of_sameHostSide hsame
  have hstep := hc.fair.run j
  rw [hturn, agentStep, hset.hostStep_eq, hset.issue_of_not_holds (hff j) hholds] at hstep
  have hpixels := framePixels_congr hsame
  obtain ⟨⟨hcfg, -⟩, -, -, hcount, -⟩ := hsame
  refine ⟨j + 1, ?_⟩
  rw [← Host.Outcome.next.inj hstep, hpixels, ← hcfg, ← hcount]
  exact ⟨rfl, rfl, rfl⟩

end

/-- Two steps of the machine, one after the other. -/
theorem core_run_two {u : State} (hfirst : step s = .next t) (hsecond : step t = .next u) :
    Sys2Proof.core.run 2 s = .next u := by
  simp only [Host.Core.run, Sys2Proof.core, hfirst, hsecond]

/-- CTRL with a copy-complete event runs its handler (R169). -/
theorem step_of_copyComplete {ts : List Turn} (hturns : s.turns = .ctrl :: ts) (hfault : s.fault = none)
    (hcpc : s.cpcPending = true) : step s = .next (cpcHandler { s with turns := ts }) := by
  simp only [step, nextTurn, afterTurn, hturns, agentStep, ctrlStep, hfault, hcpc, if_true]

/-- HOST's step completes a SET that does not hold (R97, R162). -/
theorem SetWaits.step_of_not_holds (h : SetWaits s) {ts : List Turn} (hturns : s.turns = .host :: ts)
    (hfault : s.fault = none) (hholds : setHolds s = false) :
    step s = .next (setFrame (framePixels s) (hostIssued s.hostProg { s with turns := ts })) := by
  rw [step_of_waiting hturns h.now]
  exact SetWaits.issue_of_not_holds (s := { s with turns := ts }) ⟨h.now, h.count, h.readable⟩ hfault hholds

end

/-- Settles O41: two steps when the copy is complete; in a fair run the hold ends by `Continuation.hold_ends`, and HOST's
fairness then completes the SET. -/
theorem heldSetCompletes : Obligations.HeldSetCompletes := by
  constructor
  · intro s ts hfault _ hback hcpc hnow hcount hread hturns
    have hwaits : SetWaits (cpcHandler { s with turns := .host :: ts }) := ⟨hnow, hcount, hread⟩
    have hset := hwaits.step_of_not_holds rfl hfault (by simp [setHolds, cpcHandler, hback])
    exact ⟨_, core_run_two (step_of_copyComplete hturns hfault hcpc) hset, rfl, rfl, rfl, rfl, rfl⟩
  · intro s sched r hinv hstarted _ hc hff
    have hends : ∃ k, setHolds (r k) = false :=
      (hc.hold_ends hff hinv hstarted).imp fun k hfree => setHolds_eq_false_iff.mpr (.inr hfree)
    exact ⟨hends, fun hnow hcount hread hfair => hc.set_completes hff ⟨hnow, hcount, hread⟩ hfair hends⟩

end Sys2Proof.Machine
end

section
/-! The sectors of the hue, and the channels of `hsvToRgb` (41_color R102, R115): O23, O24. -/

namespace Sys2Proof.Machine

/-! ### Saturation 0 is gray -/

theorem minChannel_le_maxChannel (p : Triple) : minChannel p ≤ maxChannel p := by
  unfold minChannel maxChannel
  omega

theorem minChannel_eq_maxChannel_iff (p : Triple) : minChannel p = maxChannel p ↔ p.c0 = p.c1 ∧ p.c1 = p.c2 := by
  rw [minChannel, maxChannel, ← BitVec.toNat_inj, ← BitVec.toNat_inj]
  omega

/-- A byte that is not 0 is at most 255, so any difference of the channels gives some saturation (R100). -/
theorem satOf_eq_zero_iff {mx mn : Nat} (hlt : mx < 256) (hle : mn ≤ mx) : satOf mx mn = 0 ↔ mn = mx := by
  rw [satOf, Nat.div_eq_zero_iff]
  omega

/-- The saturation is 0 exactly for grays (R115). -/
theorem rgbToHsv_saturation_eq_zero_iff (p : Triple) : (rgbToHsv p).c1 = 0 ↔ p.c0 = p.c1 ∧ p.c1 = p.c2 := by
  rw [← minChannel_eq_maxChannel_iff]
  by_cases hmax : maxChannel p = 0
  · have hle := minChannel_le_maxChannel p
    rw [rgbToHsv_black p hmax]
    exact iff_of_true rfl (by omega)
  · rw [← satOf_eq_zero_iff (maxChannel_lt p) (minChannel_le_maxChannel p), ← rgbToHsv_saturation p hmax,
      ← BitVec.toNat_inj]
    rfl

/-! ### The sectors of the hue -/

/-- The offset of a hue inside its sector is at most 43 either way, since two channels differ by at most the chroma. -/
theorem natAbs_tdiv_chroma_le {x d : Int} (hle : x.natAbs ≤ d.natAbs) : (Int.tdiv (43 * x) d).natAbs ≤ 43 := by
  rw [Int.natAbs_tdiv, Int.natAbs_mul]
  exact Nat.div_le_of_le_mul (by rw [Nat.mul_comm]; exact Nat.mul_le_mul_right _ hle)

/-- Each sector is 43 wide on both sides of its start: 0 for red, 85 for green, 171 for blue (R100, R115). -/
theorem hueOf_sector {r g b mx mn : Nat} (hmax : mx = max r (max g b)) (hmin : mn = min r (min g b)) :
    (mx = r → (hueOf r g b mx mn).natAbs ≤ 43) ∧
    (mx ≠ r → mx = g → (hueOf r g b mx mn - 85).natAbs ≤ 43) ∧
    (mx ≠ r → mx ≠ g → (hueOf r g b mx mn - 171).natAbs ≤ 43) := by
  refine ⟨fun hred => ?_, fun hred hgreen => ?_, fun hred hgreen => ?_⟩
  · rw [hueOf_red hred]
    exact natAbs_tdiv_chroma_le (by omega)
  · rw [hueOf_green hred hgreen, add_sub_cancel_left]
    exact natAbs_tdiv_chroma_le (by omega)
  · rw [hueOf_blue hred hgreen, add_sub_cancel_left]
    exact natAbs_tdiv_chroma_le (by omega)

/-! ### Every hue occurs -/

/-- A colour of hue `h`, with chroma 43: inside a sector its hue then moves by 1 when a channel does. -/
def colourOfHue (h : Byte) : Triple :=
  if h.toNat ≤ 43 then ⟨43, h, 0⟩
  else if h.toNat ≤ 85 then ⟨85 - h, 43, 0⟩
  else if h.toNat ≤ 128 then ⟨0, 43, h - 85⟩
  else if h.toNat ≤ 171 then ⟨0, 171 - h, 43⟩
  else if h.toNat ≤ 213 then ⟨h - 171, 0, 43⟩
  else ⟨43, 0, -h⟩

theorem rgbToHsv_colourOfHue : ∀ h : Byte, (rgbToHsv (colourOfHue h)).c0 = h := by decide

/-- Settles O23: saturation 0 is gray, the hue stays within 43 of the start of its sector, and `colourOfHue` has every hue. -/
theorem hueSectorRanges : Obligations.HueSectorRanges := by
  refine ⟨?_, fun h => ⟨colourOfHue h, rgbToHsv_colourOfHue h⟩⟩
  intro p r g b mx q
  refine ⟨rgbToHsv_value p, ?_, rgbToHsv_hue_of_gray p, fun hsat => ?_⟩
  · rw [rgbToHsv_saturation_eq_zero_iff, ← BitVec.toNat_inj, ← BitVec.toNat_inj]
  · have hhue : (q.c0.toNat : ℤ) = hueOf r g b mx (minChannel p) % 256 := rgbToHsv_hue p hsat
    obtain ⟨hred, hgreen, hblue⟩ := hueOf_sector (rfl : mx = max r (max g b)) (rfl : minChannel p = _)
    refine ⟨fun h => ?_, fun h h' => ?_, fun h h' => ?_⟩
    · have := hred h
      omega
    · have := hgreen h h'
      omega
    · have := hblue h h'
      omega

/-! ### The channels of `hsvToRgb` -/

/-- Saturation 0 gives gray (R102, R108). -/
@[simp] theorem hsvToRgb_gray (h v : Byte) : hsvToRgb ⟨h, 0, v⟩ = ⟨v, v, v⟩ := rfl

/-- With some saturation no channel of R102's selection is truncated. -/
theorem hsvToRgb_channels (p : Triple) (hsat : p.c1 ≠ 0) :
    ((hsvToRgb p).c0.toNat, (hsvToRgb p).c1.toNat, (hsvToRgb p).c2.toNat) =
      hsvSector p.c0.toNat p.c1.toNat p.c2.toNat := by
  have hmax := hsvSector_max p.c0.toNat p.c1.toNat p.c2.toNat
  have hlt := p.c2.isLt
  rw [hsvToRgb, if_neg hsat]
  dsimp only
  rw [toNat_ofNat_byte (by omega), toNat_ofNat_byte (by omega), toNat_ofNat_byte (by omega)]

/-- Settles O24: `hsvSector` is the selection of R102, and its channels fit a byte. -/
theorem hsvToRgbFormula : Obligations.HsvToRgbFormula := by
  intro x h s v region remainder p q t y rgb
  have hlt := x.c0.isLt
  refine ⟨by omega, by omega, fun hgray => ?_, fun hsat => ?_⟩
  · have hs : x.c1 = 0 := BitVec.eq_of_toNat_eq hgray
    simp only [rgb, y, hsvToRgb, if_pos hs]
    rfl
  · have hrgb : rgb = hsvSector h s v := hsvToRgb_channels x fun hs => hsat (congrArg BitVec.toNat hs)
    have hp : p = scaled v s := Nat.shiftRight_eq_div_pow _ 8
    have hq : q = scaled v (s * remainder / 256) := by simp only [q, scaled, Nat.shiftRight_eq_div_pow]
    have ht : t = scaled v (s * (255 - remainder) / 256) := by simp only [t, scaled, Nat.shiftRight_eq_div_pow]
    rw [hrgb, hp, hq, ht]
    refine ⟨?_, ?_, ?_, ?_, ?_, ?_⟩ <;> intro (hregion : h / 43 = _) <;>
      simp only [hsvSector, remainder, region, hregion]

end Sys2Proof.Machine
end

section
/-! One channel of the interpolation (41_color R103, R116): O25, O26. -/

namespace Sys2Proof.Machine

/-- A rising channel adds a floor to `a` (R103). -/
theorem blend1_rising {a b : Nat} (hle : a ≤ b) (e t : Nat) : blend1 a b e t = ((a + (b - a) * e / t : Nat) : Int) := by
  rw [blend1, tdiv, ← Int.ofNat_sub hle, ← Int.natCast_mul, ← Int.ofNat_tdiv, ← Int.natCast_add]

/-- A falling channel takes a floor from `a`: the quotient truncates toward zero (R103). -/
theorem blend1_falling {a b : Nat} (hle : b ≤ a) (e t : Nat) :
    blend1 a b e t = (a : Int) - ((a - b) * e / t : Nat) := by
  rw [blend1, tdiv, ← neg_sub (a : Int) b, neg_mul, Int.neg_tdiv, ← Int.ofNat_sub hle, ← Int.natCast_mul, ← Int.ofNat_tdiv,
    sub_eq_add_neg]

theorem mul_div_le_of_le {d e t : Nat} (het : e ≤ t) : d * e / t ≤ d :=
  Nat.div_le_of_le_mul (by rw [Nat.mul_comm t]; exact Nat.mul_le_mul_left d het)

/-- The interpolation stays between its ends (R103, R116). -/
theorem blend1_between (a b : Nat) {e t : Nat} (het : e ≤ t) :
    min (a : Int) b ≤ blend1 a b e t ∧ blend1 a b e t ≤ max (a : Int) b := by
  rcases le_total a b with hle | hle
  · have hstep := mul_div_le_of_le (d := b - a) het
    rw [blend1_rising hle]
    generalize (b - a) * e / t = k at hstep ⊢
    omega
  · have hstep := mul_div_le_of_le (d := a - b) het
    rw [blend1_falling hle]
    generalize (a - b) * e / t = k at hstep ⊢
    omega

/-- A rising channel only rises (R116). -/
theorem blend1_mono {a b e e' : Nat} (hle : a ≤ b) (hee : e ≤ e') (t : Nat) : blend1 a b e t ≤ blend1 a b e' t := by
  have hstep : (b - a) * e / t ≤ (b - a) * e' / t := Nat.div_le_div_right (Nat.mul_le_mul_left _ hee)
  rw [blend1_rising hle, blend1_rising hle]
  omega

/-- A falling channel only falls (R116). -/
theorem blend1_anti {a b e e' : Nat} (hle : b ≤ a) (hee : e ≤ e') (t : Nat) : blend1 a b e' t ≤ blend1 a b e t := by
  have hstep : (a - b) * e / t ≤ (a - b) * e' / t := Nat.div_le_div_right (Nat.mul_le_mul_left _ hee)
  rw [blend1_falling hle, blend1_falling hle]
  omega

/-- One channel of `blend` (R103). -/
def blendByte (a b : Byte) (e t : Nat) : Byte := trunc8 (blend1 a.toNat b.toNat e t)

theorem blendTriple_eq (a b : Triple) (e t : Nat) :
    blendTriple a b e t = ⟨blendByte a.c0 b.c0 e t, blendByte a.c1 b.c1 e t, blendByte a.c2 b.c2 e t⟩ := rfl

section
variable (a b : Byte) {e e' t : Nat}

/-- Between two bytes nothing is truncated (R103). -/
theorem blendByte_toNat (het : e ≤ t) : ((blendByte a b e t).toNat : Int) = blend1 a.toNat b.toNat e t := by
  have hbetween := blend1_between a.toNat b.toNat het
  have := a.isLt
  have := b.isLt
  rw [blendByte, trunc8_toNat]
  omega

theorem blendByte_between (het : e ≤ t) :
    min a.toNat b.toNat ≤ (blendByte a b e t).toNat ∧ (blendByte a b e t).toNat ≤ max a.toNat b.toNat := by
  have hbetween := blend1_between a.toNat b.toNat het
  have hexact := blendByte_toNat a b het
  omega

theorem blendByte_monotone (hee : e ≤ e') (het : e' ≤ t) :
    (a.toNat ≤ b.toNat → (blendByte a b e t).toNat ≤ (blendByte a b e' t).toNat) ∧
    (b.toNat ≤ a.toNat → (blendByte a b e' t).toNat ≤ (blendByte a b e t).toNat) := by
  have hexact := blendByte_toNat a b (hee.trans het)
  have hexact' := blendByte_toNat a b het
  refine ⟨fun hle => ?_, fun hle => ?_⟩
  · have := blend1_mono hle hee t
    omega
  · have := blend1_anti hle hee t
    omega

end

/-- Settles O25: each channel is `blendByte`, which is exact. -/
theorem blendFormula : Obligations.BlendFormula := by
  intro a b e t _ het
  simp only [blendTriple_eq, List.forall_mem_cons]
  have hchannel (x y : Byte) := And.intro (blendByte_toNat x y het) (blendByte_between x y het)
  exact ⟨hchannel _ _, hchannel _ _, hchannel _ _, List.forall_mem_nil _⟩

/-- Settles O26: the ends of `blendTriple` are exact, and between them each channel moves one way. -/
theorem blendEndpointsExact : Obligations.BlendEndpointsExact := by
  intro a b t ht
  refine ⟨blendTriple_zero a b t, blendTriple_self a b t ht, ?_⟩
  simp only [blendTriple_eq, List.forall_mem_cons]
  have hchannel (x y : Byte) (e e' : Nat) (hee : e ≤ e') (het : e' ≤ t) :=
    And.intro (blendByte_between x y (hee.trans het)) (blendByte_monotone x y hee het)
  exact ⟨hchannel _ _, hchannel _ _, hchannel _ _, List.forall_mem_nil _⟩

end Sys2Proof.Machine
end

section
/-! The colour commands (41_color R107 to R114): O28 to O33. -/

namespace Sys2Proof.Machine

/-! ### The corner cases of the conversions -/

/-- A triple whose maximum channel is 0 is black. -/
theorem eq_black_of_maxChannel_eq_zero {p : Triple} (h : maxChannel p = 0) : p = ⟨0, 0, 0⟩ := by
  obtain ⟨r, g, b⟩ := p
  have hzero : r.toNat = 0 ∧ g.toNat = 0 ∧ b.toNat = 0 := by
    simp only [maxChannel] at h
    omega
  simpa [← BitVec.toNat_inj] using hzero

/-- Value 0 gives black (R108, R114). -/
theorem hsvToRgb_black (h s : Byte) : hsvToRgb ⟨h, s, 0⟩ = ⟨0, 0, 0⟩ :=
  eq_black_of_maxChannel_eq_zero (maxChannel_hsvToRgb _)

/-- A gray has hue and saturation 0 and keeps its value (R107). -/
theorem rgbToHsv_gray (k : Byte) : rgbToHsv ⟨k, k, k⟩ = ⟨0, 0, k⟩ := by
  have hsat : (rgbToHsv ⟨k, k, k⟩).c1 = 0 := (rgbToHsv_saturation_eq_zero_iff _).mpr ⟨rfl, rfl⟩
  have hvalue : (rgbToHsv ⟨k, k, k⟩).c2 = k := by
    rw [← BitVec.toNat_inj, rgbToHsv_value]
    simp [maxChannel]
  calc rgbToHsv ⟨k, k, k⟩
    _ = ⟨(rgbToHsv ⟨k, k, k⟩).c0, (rgbToHsv ⟨k, k, k⟩).c1, (rgbToHsv ⟨k, k, k⟩).c2⟩ := rfl
    _ = ⟨0, 0, k⟩ := by rw [rgbToHsv_hue_of_gray _ hsat, hsat, hvalue]

/-! ### RGB2HSV, HSV2RGB, POWC and LOGC -/

/-- Settles O28: the command by `command_run`, the grays by `rgbToHsv_gray`, and the worked examples of R107. -/
theorem rgb2hsvResult : Obligations.Rgb2hsvResult :=
  ⟨fun _ hfault => command_run _ rgb2hsvBody _ hfault, rgbToHsv_gray, by decide⟩

/-- Settles O29: the command by `command_run`, saturation 0 and value 0, and the worked examples of R108. -/
theorem hsv2rgbResult : Obligations.Hsv2rgbResult :=
  ⟨fun _ hfault => command_run _ hsv2rgbBody _ hfault, hsvToRgb_gray, hsvToRgb_black, by decide⟩

theorem zero_append_byte (x : Byte) : 0#16 ++ x = x.setWidth 24 := (BitVec.setWidth_eq_append (by decide)).symm

/-- Settles O30: the index is the low byte of OPA, and the entry is extended with zeros. -/
theorem curveCommandsRead : Obligations.CurveCommandsRead := by
  intro s hi x hfault hopa
  have hindex : curveIndex s.opa = x := by rw [hopa, curveIndex, BitVec.extractLsb'_append_eq_right]
  constructor
  · calc exec .powc s
      _ = .next (powcBody s) := command_run _ _ _ hfault
      _ = .next (s.withResult (0#16 ++ curve s.cfg.power x)) := by rw [powcBody, hindex, zero_append_byte]
  · calc exec .logc s
      _ = .next (logcBody s) := command_run _ _ _ hfault
      _ = .next (s.withResult (0#16 ++ curve s.cfg.log x)) := by rw [logcBody, hindex, zero_append_byte]

/-! ### TOI and FROMI -/

/-- Settles O31: the commands on an unpacked triple, and the curves' corner cases. -/
theorem interpolatableConversions : Obligations.InterpolatableConversions := by
  intro s p hfault hopa
  have hunpack : unpack s.opa = p := by rw [hopa, unpack_packTriple]
  refine ⟨?_, ?_, ?_, fun h w => rfl⟩
  · calc exec .toi s
      _ = .next (toiBody s) := command_run _ _ _ hfault
      _ = .next (s.withResult (packTriple (toInterp s.cfg p))) := by rw [toiBody, hunpack]
  · calc exec .fromi s
      _ = .next (fromiBody s) := command_run _ _ _ hfault
      _ = .next (s.withResult (packTriple (fromInterp s.cfg p))) := by rw [fromiBody, hunpack]
  · rw [toInterp, rgbToHsv_gray]
    rfl

/-! ### BLEND -/

theorem blendTriple_same (a : Triple) (e t : Nat) : blendTriple a a e t = a := by
  simp [blendTriple, blend1, tdiv]

theorem exec_blend {s : State} (hfault : s.fault = none) : exec .blend s = .next (blendBody s) := command_run _ _ _ hfault

theorem raise_of_none (c : Cause) {s : State} (hfault : s.fault = none) : raise c s = { s with fault := some c } := by
  rw [raise_eq, hfault, Option.getD_none]

/-- BLEND past its two checks (R113). -/
theorem exec_blend_result {s : State} (hfault : s.fault = none) (htotal : s.total ≠ 0)
    (hle : s.elapsed.toNat ≤ s.total.toNat) {v : Packed}
    (hv : packTriple (blendTriple (unpack s.opa) (unpack s.opb) s.elapsed.toNat s.total.toNat) = v) :
    exec .blend s = .next { s with result := v } := by
  rw [exec_blend hfault, blendBody, if_neg htotal, if_neg (BitVec.not_lt.mpr hle), hv]
  rfl

/-- Settles O32: the two checks in their order, and the interpolation at its ends and between equal triples. -/
theorem blendResult : Obligations.BlendResult := by
  intro s hfault
  refine ⟨fun hzero => ?_, fun htotal hlt => ?_, fun htotal hle => ?_⟩
  · rw [exec_blend hfault, blendBody, if_pos hzero, raise_of_none _ hfault]
  · rw [exec_blend hfault, blendBody, if_neg htotal, if_pos (BitVec.lt_def.mpr hlt), raise_of_none _ hfault]
  · have hresult {v : Packed} := exec_blend_result hfault htotal hle (v := v)
    refine ⟨fun a b ha hb => hresult ?_, fun hstart => hresult ?_, fun hend => hresult ?_, fun hsame => hresult ?_⟩
    · rw [ha, hb, unpack_packTriple, unpack_packTriple]
    · rw [show s.elapsed.toNat = 0 from congrArg BitVec.toNat hstart, blendTriple_zero, packTriple_unpack]
    · have hpos : 1 ≤ s.total.toNat := Nat.pos_of_ne_zero fun h => htotal (BitVec.eq_of_toNat_eq h)
      rw [hend, blendTriple_self _ _ _ hpos, packTriple_unpack]
    · rw [← hsame, blendTriple_same, packTriple_unpack]

/-! ### CHBRIGHT -/

/-- Factor 0 gives black (R114). -/
theorem changeBrightness_zero (p : Triple) : changeBrightness p 0 = ⟨0, 0, 0⟩ := by
  rw [changeBrightness, show (0 : Byte).toNat = 0 from rfl, Nat.mul_zero, Nat.zero_div]
  exact hsvToRgb_black _ _

/-- Factor 255 leaves the value: the HSV round trip (R106, R114). -/
theorem changeBrightness_full (p : Triple) : changeBrightness p 255 = hsvToRgb (rgbToHsv p) := by
  have hvalue : (rgbToHsv p).c2.toNat * (255 : Byte).toNat / 255 = (rgbToHsv p).c2.toNat := Nat.mul_div_cancel _ (by decide)
  rw [changeBrightness, hvalue, BitVec.ofNat_toNat, BitVec.setWidth_eq]

/-- Black stays black (R114). -/
theorem changeBrightness_black (f : Byte) : changeBrightness ⟨0, 0, 0⟩ f = ⟨0, 0, 0⟩ := by
  rw [changeBrightness, rgbToHsv_gray, show (0 : Byte).toNat = 0 from rfl, Nat.zero_mul, Nat.zero_div]
  exact hsvToRgb_black _ _

/-- Settles O33: the command on an unpacked triple, the corner cases of `changeBrightness`, and the worked examples. -/
theorem chbrightResult : Obligations.ChbrightResult := by
  refine ⟨fun s p hfault hopa => ?_, by decide⟩
  have hresult {v : Triple} (hv : changeBrightness p s.factor = v) :
      exec .chbright s = .next { s with result := packTriple v } :=
    calc exec .chbright s
      _ = .next (chbrightBody s) := command_run _ _ _ hfault
      _ = .next (s.withResult (packTriple v)) := by rw [chbrightBody, hopa, unpack_packTriple, hv]
  refine ⟨hresult rfl, fun hzero => hresult (v := ⟨0, 0, 0⟩) ?_, fun hfull => hresult ?_,
    fun hblack => hresult (v := ⟨0, 0, 0⟩) ?_⟩
  · rw [hzero, changeBrightness_zero]
  · rw [hfull, changeBrightness_full]
  · have hp : p = ⟨0, 0, 0⟩ := by rw [← unpack_packTriple p, ← hopa, hblack]; rfl
    rw [hp, changeBrightness_black]

end Sys2Proof.Machine
end

section
/-! The encoder's wire bits and its specification inverse (42_encoder R140 to R150): O34, O36. -/

namespace Sys2Proof.Machine

/-! ### The wire bits of an encoded frame -/

theorem serialise_append (a b : List Byte) : serialise (a ++ b) = serialise a ++ serialise b := List.flatMap_append

theorem serialise_flatMap {α : Type} (l : List α) (f : α → List Byte) :
    serialise (l.flatMap f) = l.flatMap fun x => serialise (f x) := List.flatMap_assoc

theorem serialise_replicate_zero (n : Nat) : serialise (List.replicate n 0) = List.replicate (8 * n) false := by
  have hbyte : serialiseByte 0 = List.replicate 8 false := by decide
  rw [serialise, List.flatMap_replicate, hbyte, List.flatten_replicate_replicate, Nat.mul_comm]

/-- The three bytes of two source bits carry their two cells (R141, R142). -/
theorem serialise_pair (x y : Bool) : serialise (pair x y) = cell x ++ cell y := by
  cases x <;> cases y <;> decide

theorem serialise_encChannel (c : Byte) : serialise (encChannel c) = (sourceBits c).flatMap cell := by
  simp only [encChannel, serialise_append, serialise_pair]
  rfl

theorem serialise_encPixel (p : Triple) :
    serialise (encPixel p) = [p.c0, p.c1, p.c2].flatMap fun ch => (sourceBits ch).flatMap cell := by
  simp only [encPixel, serialise_append, serialise_encChannel]
  simp only [List.flatMap_cons, List.flatMap_nil, List.append_nil, List.append_assoc]

/-- Settles O34: the pixels by `serialise_encPixel`, from the cells of one pair of source bits; the tail is low. -/
theorem wireCarriesCells : Obligations.WireCarriesCells := by
  intro c ps
  rw [encFrame, serialise_append, serialise_flatMap, serialise_replicate_zero]
  simp only [serialise_encPixel]
  rfl

/-! ### The inverse of one channel (R149) -/

/-- The variable nibbles are those of the two source bits, and no other nibble is one. -/
theorem decNibble_eq_some_iff (n : BitVec 4) (x : Bool) : decNibble n = some x ↔ n = nibble x := by
  revert n x
  decide

theorem byte_eq_append_iff (b : Byte) (hi lo : BitVec 4) :
    b = hi ++ lo ↔ b.extractLsb' 4 4 = hi ∧ b.extractLsb' 0 4 = lo := by
  constructor
  · rintro rfl
    exact ⟨BitVec.extractLsb'_append_eq_left, BitVec.extractLsb'_append_eq_right⟩
  · rintro ⟨rfl, rfl⟩
    rw [BitVec.extractLsb'_append_extractLsb'_eq_extractLsb' (Nat.zero_add 4).symm, BitVec.extractLsb'_eq_self]

/-- `decPair` accepts exactly the encodings of two source bits. -/
theorem decPair_eq_some_iff (b0 b1 b2 : Byte) (x y : Bool) :
    decPair b0 b1 b2 = some (x, y) ↔ [b0, b1, b2] = pair x y := by
  simp only [pair, List.cons.injEq, and_true, byte_eq_append_iff, ← decNibble_eq_some_iff]
  unfold decPair
  split
  next hfixed =>
    obtain ⟨hhi, hmid, hlo⟩ := hfixed
    cases decNibble (b0.extractLsb' 0 4) <;> cases decNibble (b2.extractLsb' 4 4) <;> simp [hhi, hmid, hlo]
  next hfixed =>
    exact iff_of_false nofun fun ⟨⟨hhi, _⟩, hmid, _, hlo⟩ => hfixed ⟨hhi, hmid, hlo⟩

theorem decPair_pair (x y : Bool) :
    decPair (0xF#4 ++ nibble x) 0x0F (nibble y ++ 0x0#4) = some (x, y) :=
  (decPair_eq_some_iff _ _ _ x y).mpr rfl

theorem sourceBits_byteOfBits (a b c d e f g h : Bool) :
    sourceBits (byteOfBits a b c d e f g h) = [a, b, c, d, e, f, g, h] := by
  have hconcat : byteOfBits a b c d e f g h =
      (((((((BitVec.ofBool a).concat b).concat c).concat d).concat e).concat f).concat g).concat h := rfl
  simp [sourceBits, serialiseByte, hconcat, BitVec.getElem_concat]

/-- The eight source bits are all of a channel. -/
theorem sourceBits_injective : Function.Injective sourceBits := by
  intro a b hbits
  simp only [sourceBits, serialiseByte, List.cons.injEq, and_true] at hbits
  refine BitVec.eq_of_getLsbD_eq fun i hi => ?_
  interval_cases i <;> simp only [hbits]

theorem byteOfBits_getLsbD (c : Byte) :
    byteOfBits (c.getLsbD 7) (c.getLsbD 6) (c.getLsbD 5) (c.getLsbD 4) (c.getLsbD 3) (c.getLsbD 2) (c.getLsbD 1)
      (c.getLsbD 0) = c :=
  sourceBits_injective (sourceBits_byteOfBits _ _ _ _ _ _ _ _)

theorem encChannel_byteOfBits (a b c d e f g h : Bool) :
    encChannel (byteOfBits a b c d e f g h) = pair a b ++ pair c d ++ pair e f ++ pair g h := by
  have hbits := sourceBits_byteOfBits a b c d e f g h
  simp only [sourceBits, serialiseByte, List.cons.injEq, and_true] at hbits
  obtain ⟨h7, h6, h5, h4, h3, h2, h1, h0⟩ := hbits
  rw [encChannel, h7, h6, h5, h4, h3, h2, h1, h0]

theorem decChannel_encChannel (c : Byte) : decChannel (encChannel c) = some c := by
  simp only [encChannel, pair, List.cons_append, List.nil_append, decChannel, decPair_pair, byteOfBits_getLsbD]

theorem encChannel_of_decChannel {l : List Byte} {c : Byte} (h : decChannel l = some c) : l = encChannel c := by
  unfold decChannel at h
  split at h
  · split at h
    · next h0 h1 h2 h3 =>
      simp only [decPair_eq_some_iff] at h0 h1 h2 h3
      cases h
      rw [encChannel_byteOfBits, ← h0, ← h1, ← h2, ← h3]
      rfl
    · cases h
  · cases h

/-- `decChannel` accepts exactly the encodings of a channel. -/
theorem decChannel_eq_some_iff (l : List Byte) (c : Byte) : decChannel l = some c ↔ l = encChannel c :=
  ⟨encChannel_of_decChannel, fun h => h ▸ decChannel_encChannel c⟩

theorem encChannel_injective : Function.Injective encChannel := fun a b h =>
  Option.some_injective _ <| by rw [← decChannel_encChannel, h, decChannel_encChannel]

/-! ### Pixels and frames -/

/-- `decPixel` accepts exactly the encodings of a pixel: three channels of 12 bytes (R144). -/
theorem decPixel_eq_some_iff (l : List Byte) (p : Triple) : decPixel l = some p ↔ l = encPixel p := by
  constructor
  · intro h
    unfold decPixel at h
    split at h
    · next hr hg hb =>
      cases h
      rw [decChannel_eq_some_iff] at hr hg hb
      calc l
        _ = l.take 12 ++ ((l.drop 12).take 12 ++ (l.drop 12).drop 12) := by simp only [List.take_append_drop]
        _ = encPixel _ := by rw [List.drop_drop, hr, hg, hb, encPixel, List.append_assoc]
    · cases h
  · rintro rfl
    have htake : (encPixel p).take 12 = encChannel p.c0 := rfl
    have hmid : ((encPixel p).drop 12).take 12 = encChannel p.c1 := rfl
    have hlast : (encPixel p).drop 24 = encChannel p.c2 := rfl
    simp only [decPixel, htake, hmid, hlast, decChannel_encChannel]

/-- `decPixels k` accepts exactly the encodings of `k` pixels, whatever follows them. -/
theorem decPixels_eq_some_iff (k : Nat) (l rest : List Byte) (ps : List Triple) :
    decPixels k l = some (ps, rest) ↔ ps.length = k ∧ l = ps.flatMap encPixel ++ rest := by
  induction k generalizing l ps with
  | zero => cases ps <;> simp [decPixels]
  | succ k ih =>
    constructor
    · intro h
      unfold decPixels at h
      split at h
      · next hp hps =>
        cases h
        obtain ⟨hlen, hrest⟩ := (ih _ _).mp hps
        refine ⟨congrArg _ hlen, ?_⟩
        rw [List.flatMap_cons, List.append_assoc, ← hrest, ← (decPixel_eq_some_iff _ _).mp hp, List.take_append_drop]
      · cases h
    · rintro ⟨hlen, rfl⟩
      match ps, hlen with
      | p :: ps, hlen =>
        have htail := (ih _ ps).mpr ⟨Nat.succ.inj hlen, rfl⟩
        have hhead := (decPixel_eq_some_iff _ p).mpr rfl
        rw [List.flatMap_cons, List.append_assoc, decPixels, List.take_left' (encPixel_length p),
          List.drop_left' (encPixel_length p), hhead, htail]

/-- `decFrame` accepts exactly the encodings of a frame of N pixels (R149, R150). -/
theorem decFrame_eq_some_iff (c : Cfg) (l : List Byte) (ps : List Triple) :
    decFrame c l = some ps ↔ ps.length = c.n ∧ l = encFrame c ps := by
  rw [encFrame, ← decPixels_eq_some_iff, decFrame]
  cases decPixels c.n l with
  | none => exact iff_of_false nofun nofun
  | some r => simp only [Option.ite_none_right_eq_some, Option.some.injEq, Prod.ext_iff, and_comm]

theorem encPixel_black : encPixel ⟨0, 0, 0⟩ = (List.replicate 12 [(0xF0 : Byte), 0x0F, 0x00]).flatten := by
  decide

/-- The encoding of the black frame (R150). -/
theorem encFrame_black (c : Cfg) : encFrame c (List.replicate c.n ⟨0, 0, 0⟩) =
    (List.replicate (12 * c.n) [(0xF0 : Byte), 0x0F, 0x00]).flatten ++ List.replicate c.resetBytes 0 := by
  rw [encFrame, List.flatMap_replicate, encPixel_black, ← List.map_replicate, ← List.flatten_flatten,
    List.flatten_replicate_replicate, Nat.mul_comm]

/-- Settles O36: the inverses accept exactly the encodings, from one pair of source bits up to a frame. -/
theorem encoderRoundTrip : Obligations.EncoderRoundTrip :=
  ⟨decChannel_encChannel, encChannel_injective, fun c =>
    ⟨fun ps hn => (decFrame_eq_some_iff c _ ps).mpr ⟨hn, rfl⟩, fun l ps => (decFrame_eq_some_iff c l ps).mp,
      encFrame_black c⟩⟩

end Sys2Proof.Machine
end

section
/-! The block before START (43_driver R198, 70_reset R222): O13. -/

namespace Sys2Proof.Machine

/-- COPYDONE without an enabled step leaves the block as it is (R172). -/
theorem copyDone_not_enabled {s : State} (h : copyDoneEnabled s = false) : copyDone s = s := by
  rcases copyDone_cases s with hsame | ⟨k, hfault, hcopy, _⟩
  · exact hsame
  · simp [copyDoneEnabled, hfault, hcopy] at h

/-- A turn of an engine or a handler without an enabled step changes nothing (R168, R169, R172, R178). -/
theorem agentStep_of_not_enabled {s : State} (hctrl : ctrlEnabled s = false) (htx : txDoneEnabled s = false)
    (hcopy : copyDoneEnabled s = false) {t : Turn} (ht : t ≠ .host) : agentStep t s = .next s := by
  cases t with
  | host => exact absurd rfl ht
  | ctrl => exact congrArg _ (ctrlStep_not_enabled s hctrl)
  | txdma => simp [agentStep, txDone, htx]
  | cpydma => exact congrArg _ (copyDone_not_enabled hcopy)
  | dmaerr => simp [agentStep, dmaErr, dmaErrEnabled, htx, hcopy]

theorem Inv.txcPending_of_unstarted {s : State} (h : Inv s) (hs : s.started = false) : s.txcPending = none := by
  rcases hp : s.txcPending with _ | i
  · rfl
  · obtain ⟨hstarted, _⟩ := h.pending i hp
    rw [hs] at hstarted; cases hstarted

/-- Settles O13: with no event and no copy, and not started, no engine and no handler is enabled. -/
theorem nothingMovesBeforeStart : Obligations.NothingMovesBeforeStart := by
  intro s hinv hs
  obtain ⟨_, hcpc, _, _⟩ := hinv.unstarted hs
  have htxc := hinv.txcPending_of_unstarted hs
  have hcopy := hinv.copy_of_unstarted hs
  refine ⟨htxc, hcpc, hcopy, fun t => agentStep_of_not_enabled ?_ ?_ ?_, fun hfault k => ?_⟩
  · simp [ctrlEnabled, hcpc, htxc]
  · simp [txDoneEnabled, hs]
  · simp [copyDoneEnabled, hcopy]
  · simp [lineBit, liveBit, hfault, hs]

end Sys2Proof.Machine
end

section
/-! The steps of the engines and handlers, each in its own turn (43_driver R161, R168 to R173, R178): O37, O42 to O46. -/

namespace Sys2Proof.Machine

section
variable {s : State}

/-- The next step is the step of the schedule's first agent, on the state with the rest of the schedule (R13). -/
theorem step_of_turns {t : Turn} {ts : List Turn} (hturns : s.turns = t :: ts) :
    step s = agentStep t (scheduled ts s.draws s) := by
  simp only [step, nextTurn, afterTurn, hturns, scheduled]

/-! ### The engines -/

theorem txDone_of_idle (hidle : s.started = false ∨ s.fault ≠ none) : txDone s = s := by
  have henabled : txDoneEnabled s = false := by
    simpa [txDoneEnabled, imp_iff_not_or, Option.isSome_iff_ne_none] using hidle
  simp [txDone, henabled]

/-- An event that CTRL has not handled is overrun (R168). -/
theorem txDone_of_event (hstarted : s.started = true) (hfault : s.fault = none) (htxc : s.txcPending ≠ none) :
    txDone s = { s with fault := some .irqOverrun } := by
  simp [txDone, txDoneEnabled, hstarted, hfault, Option.isSome_iff_ne_none, htxc, raise_of_none]

/-- A copy still in flight is late (R168). -/
theorem txDone_of_copy (hstarted : s.started = true) (hfault : s.fault = none) (htxc : s.txcPending = none)
    (hcopy : s.copy ≠ none) : txDone s = { s with fault := some .copyLate } := by
  simp [txDone, txDoneEnabled, hstarted, hfault, htxc, Option.isSome_iff_ne_none, hcopy, raise_of_none]

/-- With no event and no copy the buffer is sent (R168). -/
theorem txDone_eq_bufferSent (hstarted : s.started = true) (hfault : s.fault = none) (htxc : s.txcPending = none)
    (hcopy : s.copy = none) : txDone s = bufferSent s := by
  simp [txDone, txDoneEnabled, hstarted, hfault, htxc, hcopy, bufferSent]

theorem copyDone_of_idle (hidle : s.copy = none ∨ s.fault ≠ none) : copyDone s = s :=
  copyDone_not_enabled (by simpa [copyDoneEnabled, imp_iff_not_or, Option.isSome_iff_ne_none] using hidle)

theorem copyDone_eq_copied (hfault : s.fault = none) {k : Copy} (hcopy : s.copy = some k) : copyDone s = copied k s := by
  simp only [copyDone, hfault, hcopy, copied]

theorem dmaErr_of_runs (hmay : s.cfg.dmaMayFail = true) (hfault : s.fault = none)
    (hruns : s.started = true ∨ s.copy ≠ none) : dmaErr s = { s with fault := some .dmaError } := by
  have henabled : dmaErrEnabled s = true := by
    simpa [dmaErrEnabled, txDoneEnabled, copyDoneEnabled, hmay, hfault, Option.isSome_iff_ne_none] using hruns
  rw [dmaErr, if_pos henabled, raise_of_none _ hfault]

theorem dmaErr_of_idle (hidle : s.cfg.dmaMayFail = false ∨ s.fault ≠ none ∨ (s.started = false ∧ s.copy = none)) :
    dmaErr s = s := by
  have henabled : dmaErrEnabled s = false := by
    rcases hidle with hcannot | hfault | ⟨hstarted, hcopy⟩
    · simp [dmaErrEnabled, hcannot]
    · simp [dmaErrEnabled, txDoneEnabled, copyDoneEnabled, Option.isSome_iff_ne_none, hfault]
    · simp [dmaErrEnabled, txDoneEnabled, copyDoneEnabled, hstarted, hcopy]
  simp [dmaErr, henabled]

/-! ### The handlers -/

theorem ctrlStep_of_idle (hidle : s.fault ≠ none ∨ (s.cpcPending = false ∧ s.txcPending = none)) : ctrlStep s = s := by
  refine ctrlStep_not_enabled s ?_
  rcases hidle with hfault | ⟨hcpc, htxc⟩
  · simp [ctrlEnabled, hfault]
  · simp [ctrlEnabled, hcpc, htxc]

/-- CTRL with only a transmit-complete event runs that handler (R169). -/
theorem ctrlStep_eq_txcHandler (hfault : s.fault = none) (hcpc : s.cpcPending = false) {i : Front}
    (htxc : s.txcPending = some i) : ctrlStep s = txcHandler i s := by
  simp [ctrlStep, hfault, hcpc, htxc]

/-- A copy that would begin while one is in flight is late (R170). -/
theorem txcHandler_of_copy (i : Front) (hbegins : s.backState ≠ .readyToCopy → s.frontId0 ≠ s.frontId1)
    (hfault : s.fault = none) (hcopy : s.copy ≠ none) : txcHandler i s = { s with fault := some .copyLate } := by
  by_cases hready : s.backState = .readyToCopy
  · simp [txcHandler, hready, Option.isSome_iff_ne_none, hcopy, raise_of_none, hfault]
  · simp [txcHandler, hready, State.frontId, hbegins hready, Option.isSome_iff_ne_none, hcopy, raise_of_none, hfault]

theorem txcHandler_of_ready (i : Front) (hready : s.backState = .readyToCopy) (hcopy : s.copy = none) :
    txcHandler i s = copyBegun ⟨.back, i⟩ .copying s.backId s := by
  simp [txcHandler, hready, hcopy, copyBegun]

theorem txcHandler_of_ids_ne (i : Front) (hready : s.backState ≠ .readyToCopy) (hids : s.frontId0 ≠ s.frontId1)
    (hcopy : s.copy = none) :
    txcHandler i s = copyBegun ⟨.front i.other, i⟩ s.backState (s.frontId i.other) s := by
  simp [txcHandler, hready, hids, hcopy, copyBegun, State.frontId]

theorem txcHandler_of_ids_eq (i : Front) (hready : s.backState ≠ .readyToCopy) (hids : s.frontId0 = s.frontId1) :
    txcHandler i s = txcEnd s := by
  simp [txcHandler, hready, hids, State.frontId]

end

/-! ### Each in its turn -/

/-- Settles O37: START runs `startBody`, which begins the ring once. -/
theorem startBeginsRing : Obligations.StartBeginsRing := by
  intro s hfault
  have hexec : exec .start s = .next (startBody s) := command_run _ _ _ hfault
  exact ⟨fun hs => by simp [hexec, startBody, hs], fun hs => by simp [hexec, startBody, hs]⟩

/-- Settles O42: the four cases of TXDONE, in the turn of TXDMA. -/
theorem txDoneStep : Obligations.TxDoneStep := by
  intro s ts hturns
  rw [step_of_turns hturns]
  let s' := scheduled ts s.draws s
  exact ⟨fun hidle => congrArg _ (txDone_of_idle (s := s') hidle), fun hstarted hfault =>
    ⟨fun htxc => congrArg _ (txDone_of_event (s := s') hstarted hfault htxc),
      fun htxc hcopy => congrArg _ (txDone_of_copy (s := s') hstarted hfault htxc hcopy),
      fun htxc hcopy => congrArg _ (txDone_eq_bufferSent (s := s') hstarted hfault htxc hcopy)⟩⟩

/-- Settles O43: CTRL without a step, and the copy-complete handler on a Copying back buffer and on another. -/
theorem copyCompleteHandlerStep : Obligations.CopyCompleteHandlerStep := by
  intro s ts hturns
  refine ⟨fun hidle => ?_, fun hfault hcpc => ?_⟩
  · rw [step_of_turns hturns]
    exact congrArg _ (ctrlStep_of_idle (s := scheduled ts s.draws s) hidle)
  · rw [step_of_copyComplete hturns hfault hcpc]
    exact ⟨fun hcopying => by simp [cpcHandler, hcopying], fun hback => by simp [cpcHandler, hback]⟩

/-- Settles O44: the branches of the transmit-complete handler, in the turn of CTRL. -/
theorem transmitCompleteHandlerStep : Obligations.TransmitCompleteHandlerStep := by
  intro s ts i hturns hfault hcpc htxc
  let s' := scheduled ts s.draws s
  have hstep : step s = .next (txcHandler i s') :=
    (step_of_turns hturns).trans (congrArg _ (ctrlStep_eq_txcHandler (s := s') hfault hcpc htxc))
  rw [hstep]
  refine ⟨fun hready => ⟨fun hcopy => ?_, fun hcopy => ?_⟩,
    fun hready hids => ⟨fun hcopy => ?_, fun hcopy => ?_⟩, fun hready hids => ?_⟩
  · exact congrArg _ (txcHandler_of_copy (s := s') i (absurd hready) hfault hcopy)
  · rw [txcHandler_of_ready (s := s') i hready hcopy]
    cases i <;> rfl
  · exact congrArg _ (txcHandler_of_copy (s := s') i (fun _ => hids) hfault hcopy)
  · rw [txcHandler_of_ids_ne (s := s') i hready hids hcopy]
    cases i <;> rfl
  · exact congrArg _ (txcHandler_of_ids_eq (s := s') i hready hids)

/-- Settles O45: COPYDONE without a step, and the end of a copy into either front buffer. -/
theorem copyDoneStep : Obligations.CopyDoneStep := by
  intro s ts hturns
  rw [step_of_turns hturns]
  let s' := scheduled ts s.draws s
  refine ⟨fun hidle => congrArg _ (copyDone_of_idle (s := s') hidle), fun src dst hcopy hfault => ?_⟩
  refine (congrArg _ (copyDone_eq_copied (s := s') hfault hcopy)).trans ?_
  cases dst <;> rfl

/-- Settles O46: DMAERR where it is enabled, and where it is not. -/
theorem dmaErrorStep : Obligations.DmaErrorStep := by
  intro s ts hturns
  rw [step_of_turns hturns]
  let s' := scheduled ts s.draws s
  exact ⟨fun hmay hfault hruns => congrArg _ (dmaErr_of_runs (s := s') hmay hfault hruns),
    fun hidle => congrArg _ (dmaErr_of_idle (s := s') hidle)⟩

end Sys2Proof.Machine
end

section
/-! SET before START and its hold after it, the one copy in flight, and the front buffer being sent (43_driver R164, R165,
R171, R174, R175): O39, O40, O50, O52, O53. -/

namespace Sys2Proof.Machine

section
variable {s t : State}

/-! ### The hold of SET -/

/-- Settles O39: before START SET has no hold, and the invariant of reached states excludes Copying. -/
theorem setBeforeStartCompletes : Obligations.SetBeforeStartCompletes := by
  refine ⟨fun s hfault hs hcount hread => ?_, fun s hreach hs => ?_⟩
  · have hset : exec .set s = .next (setFrame (framePixels s) s) := by
      rw [exec_set hfault, setBody_of_completes hcount (setHolds_eq_false_iff.mpr (.inl hs)) hread]
    exact ⟨_, hset, rfl, rfl, rfl, encodesFrame_framePixels s⟩
  · obtain ⟨hcopying, -⟩ := hreach.inv.unstarted hs
    cases hback : s.backState with
    | free => exact .inl rfl
    | readyToCopy => exact .inr rfl
    | copying => exact absurd hback hcopying

/-- A started ring that makes SET wait still does after a step, or the step is the copy-complete handler's on a Copying back
buffer (R164, R173). -/
theorem DriverStep.holds_or_copyComplete (hstep : DriverStep s t) (hs : s.started = true) (hback : s.backState ≠ .free) :
    (t.started = true ∧ t.backState ≠ .free) ∨
      (nextTurn s = .ctrl ∧ s.fault = none ∧ s.cpcPending = true ∧ s.backState = .copying) := by
  cases hstep with
  | copyComplete hturn hfault hcpc hsame =>
    by_cases hcopying : s.backState = .copying
    · exact .inr ⟨hturn, hfault, hcpc, hcopying⟩
    · exact .inl ⟨hsame.started.trans hs, by simpa [hsame.backState, cpcHandler, hcopying] using hback⟩
  | start _ _ hunstarted => exact absurd (hs.symm.trans hunstarted) nofun
  | frame _ _ _ _ _ _ _ hsame => exact .inl ⟨hsame.started.trans hs, by simp [hsame.backState]⟩
  | quiet hsame => exact .inl ⟨hsame.started.trans hs, by rwa [hsame.backState]⟩
  | txDone _ _ _ _ _ hsame => exact .inl ⟨hsame.started.trans hs, by rwa [hsame.backState]⟩
  | copyDone k _ _ _ hsame => exact .inl (by simp [hsame.started, hsame.backState, copied, hs, hback])
  | copyFromBack i _ _ _ hsame => exact .inl (by simp [hsame.started, hsame.backState, copyBegun, hs])
  | copyFromFront i _ _ _ _ hsame => exact .inl (by simp [hsame.started, hsame.backState, copyBegun, hs, hback])
  | noCopy i _ _ _ hsame => exact .inl ⟨hsame.started.trans hs, by rwa [hsame.backState]⟩

/-- Settles O40: every other step leaves the hold as it is. -/
theorem onlyCopyCompleteLiftsHold : Obligations.OnlyCopyCompleteLiftsHold := by
  intro s t hstep hs hback hlifted
  refine ((step_driverStep hstep).holds_or_copyComplete hs hback).resolve_left fun ⟨hs', hback'⟩ => ?_
  rcases hlifted with hfree | hunstarted
  · exact hback' hfree
  · exact absurd (hs'.symm.trans hunstarted) nofun

/-! ### The copy in flight -/

/-- While a transmit-complete event waits there is no copy (R174). -/
theorem Inv.copy_of_txcPending (h : Inv s) (htxc : s.txcPending ≠ none) : s.copy = none := by
  rcases hk : s.copy with _ | k
  · rfl
  · obtain ⟨-, -, hnone, -⟩ := h.copy k hk
    exact absurd hnone htxc

/-- Settles O50: the invariant of reached states says so of every copy. -/
theorem oneCopyInFlight : Obligations.OneCopyInFlight := by
  intro s hreach _
  refine ⟨fun k hk => ?_, fun _ htxc => hreach.inv.copy_of_txcPending htxc⟩
  obtain ⟨-, hdst, -, hcpc, -⟩ := hreach.inv.copy k hk
  exact ⟨hdst, hcpc⟩

/-- Settles O52: the other front buffer has the newest id by the invariant, and the handler copies that one. -/
theorem fresherFrontIsTheOther : Obligations.FresherFrontIsTheOther := by
  intro s t i hinv hfault hcpc htxc hready hids hturn hstep
  have hnewest := hinv.frontId_other htxc hready hids
  have hcopy := hinv.copy_of_txcPending (by simp [htxc])
  obtain ⟨ts, k, hafter⟩ := afterTurn_eq s
  let s' := scheduled ts k s
  have hhandled : ctrlStep s' = copyBegun ⟨.front i.other, i⟩ s.backState (s.frontId i.other) s' := by
    rw [ctrlStep_eq_txcHandler (s := s') hfault hcpc htxc]
    exact txcHandler_of_ids_ne (s := s') i hready hids hcopy
  rw [step, hturn, hafter] at hstep
  cases (congrArg _ hhandled).symm.trans hstep
  exact ⟨hnewest, by simp [copyBegun], by simp [copyBegun, hnewest]⟩

/-! ### The front buffer being sent -/

/-- No step writes the buffer being sent: the only copy there can be targets the other one (R174, R175). -/
theorem DriverStep.sentBuf_eq (hstep : DriverStep s t) (h : Inv s) :
    t.buf (.front s.txIdx) = s.buf (.front s.txIdx) := by
  rcases hstep.front_eq_or s.txIdx with hsame | ⟨-, k, hk, hdst, -⟩
  · exact hsame
  · obtain ⟨-, hother, -⟩ := h.copy k hk
    exact absurd (hother.symm.trans hdst) (other_ne _)

/-- A step of a started ring leaves it where it is, or TXDONE moves it on (R168). -/
theorem DriverStep.txIdx_eq_or (hstep : DriverStep s t) (hs : s.started = true) :
    t.txIdx = s.txIdx ∨ nextTurn s = .txdma ∧ SameDriver (bufferSent s) t := by
  cases hstep with
  | txDone hturn _ _ _ _ hsame => exact .inr ⟨hturn, hsame⟩
  | start _ _ hunstarted => exact absurd (hs.symm.trans hunstarted) nofun
  | quiet hsame => exact .inl hsame.txIdx
  | frame _ _ _ _ _ _ _ hsame => exact .inl hsame.txIdx
  | copyDone k _ _ _ hsame => exact .inl (hsame.txIdx.trans (by simp [copied]))
  | copyComplete _ _ _ hsame => exact .inl hsame.txIdx
  | copyFromBack i _ _ _ hsame => exact .inl (hsame.txIdx.trans (by simp [copyBegun]))
  | copyFromFront i _ _ _ _ hsame => exact .inl (hsame.txIdx.trans (by simp [copyBegun]))
  | noCopy i _ _ _ hsame => exact .inl hsame.txIdx

end

/-- Settles O53: no copy targets the buffer being sent, and TXDONE alone moves the ring on. -/
theorem frontStableWhileSent : Obligations.FrontStableWhileSent := by
  intro s t hinv hs hstep
  have hdriver := step_driverStep hstep
  refine ⟨hdriver.sentBuf_eq hinv, fun hmoved => ?_⟩
  obtain ⟨-, hsame⟩ := (hdriver.txIdx_eq_or hs).resolve_left hmoved
  exact hsame.wire

end Sys2Proof.Machine
end

section
/-! The frame in BACK reaches the wire: on one schedule, and in every fair run that does not fault (43_driver R170, R172, R176;
70_reset R226): O60. -/

namespace Sys2Proof.Machine

/-! ### One schedule -/

section
variable {s t : State} {i : Front}

theorem core_run_add {m : Nat} (h : Sys2Proof.core.run m s = .next t) (n : Nat) :
    Sys2Proof.core.run (m + n) s = Sys2Proof.core.run n t := by
  induction m generalizing s with
  | zero => cases h; rw [Nat.zero_add]
  | succ m ih =>
    rw [Nat.succ_add]
    simp only [Host.Core.run] at h ⊢
    cases hstep : Sys2Proof.core.step s with
    | next u => rw [hstep] at h; exact ih h
    | fault c => rw [hstep] at h; cases h
    | refused c => rw [hstep] at h; cases h

theorem core_run_one (h : step s = .next t) : Sys2Proof.core.run 1 s = .next t := by
  simp only [Host.Core.run, Sys2Proof.core, h]

/-- The event of FRONT `i` is what CTRL handles next, while the other front buffer is being sent. -/
structure EventPending (i : Front) (s : State) : Prop where
  started : s.started = true
  noFault : s.fault = none
  txIdx : s.txIdx = i.other
  event : s.txcPending = some i
  noCopyEvent : s.cpcPending = false
  noCopy : s.copy = none

/-- The buffer being sent can end without a fault (R168). -/
structure SendingClear (s : State) : Prop where
  started : s.started = true
  noFault : s.fault = none
  noEvent : s.txcPending = none
  noCopy : s.copy = none

theorem Inv.eventPending (h : Inv s) (hfault : s.fault = none) (htxc : s.txcPending = some i) (hcpc : s.cpcPending = false) :
    EventPending i s := by
  obtain ⟨hs, htx⟩ := h.pending i htxc
  exact ⟨hs, hfault, htx, htxc, hcpc, h.copy_of_txcPending (by simp [htxc])⟩

theorem SendingClear.step_eq (h : SendingClear s) {ts : List Turn} (hturns : s.turns = .txdma :: ts) :
    step s = .next (bufferSent (scheduled ts s.draws s)) :=
  (step_of_turns hturns).trans
    (congrArg _ (txDone_eq_bufferSent (s := scheduled ts s.draws s) h.started h.noFault h.noEvent h.noCopy))

theorem EventPending.step_eq (h : EventPending i s) {ts : List Turn} (hturns : s.turns = .ctrl :: ts) :
    step s = .next (txcHandler i (scheduled ts s.draws s)) :=
  (step_of_turns hturns).trans
    (congrArg _ (ctrlStep_eq_txcHandler (s := scheduled ts s.draws s) h.noFault h.noCopyEvent h.event))

theorem copyBegun_scheduled (k : Copy) (b : BackState) (id : Word) (ts : List Turn) (n : Nat) (s : State) :
    copyBegun k b id (scheduled ts n s) = scheduled ts n (copyBegun k b id s) := by
  obtain ⟨src, dst⟩ := k
  cases dst <;> rfl

/-- The turns of CTRL and CPYDMA begin and end a copy, where the handler begins one (R170, R172). -/
theorem EventPending.run_copy (h : EventPending i s) {ts : List Turn} (hturns : s.turns = .ctrl :: .cpydma :: ts)
    {src : Buf} {b : BackState} {id : Word} (hbegins : txcHandler i (scheduled (.cpydma :: ts) s.draws s) =
      copyBegun ⟨src, i⟩ b id (scheduled (.cpydma :: ts) s.draws s)) :
    ∃ n, Sys2Proof.core.run 2 s = .next (copied ⟨src, i⟩ (scheduled ts n (copyBegun ⟨src, i⟩ b id s))) := by
  let s' := copyBegun ⟨src, i⟩ b id s
  have hfirst : step s = .next (scheduled (.cpydma :: ts) s.draws s') :=
    (h.step_eq hturns).trans (congrArg _ (hbegins.trans (copyBegun_scheduled ..)))
  have hfault : s'.fault = none := by simpa [s', copyBegun] using h.noFault
  have hcopy : s'.copy = some ⟨src, i⟩ := by simp [s', copyBegun]
  exact ⟨s.draws, core_run_two hfirst <| (step_of_turns rfl).trans <|
    congrArg _ (copyDone_eq_copied (s := scheduled ts s.draws s') hfault hcopy)⟩

/-- `u` is `s` after the turns of CTRL and CPYDMA: the event is handled, and its copy, if there is one, has ended. -/
structure Handled (i : Front) (ts : List Turn) (s u : State) : Prop where
  clear : SendingClear u
  turns : u.turns = ts
  txIdx : u.txIdx = i.other
  wire : u.wire = s.wire
  sent : u.buf (.front i.other) = s.buf (.front i.other)
  ready : s.backState = .readyToCopy → u.buf (.front i) = s.bufBack ∧ u.cpcPending = true

theorem EventPending.handled_copy (h : EventPending i s) (ts : List Turn) (n : Nat) {src : Buf} {b : BackState}
    (id : Word) (hsrc : s.backState = .readyToCopy → src = .back) :
    Handled i ts s (copied ⟨src, i⟩ (scheduled ts n (copyBegun ⟨src, i⟩ b id s))) where
  clear := by constructor <;> simp [copied, copyBegun, scheduled, h.started, h.noFault]
  turns := by simp [copied, scheduled]
  txIdx := by simp [copied, copyBegun, scheduled, h.txIdx]
  wire := by simp [copied, copyBegun, scheduled]
  sent := by
    rw [copied, buf_copyEnd, buf_setBuf_ne _ _ _ _ (by simp)]
    exact buf_copyBegun ..
  ready := fun hready => by
    refine ⟨?_, by simp [copied]⟩
    rw [copied, buf_copyEnd, buf_setBuf_self, hsrc hready]
    exact buf_copyBegun _ _ _ s .back

/-- In the turns of CTRL and CPYDMA the event is handled, in each branch of R170. -/
theorem EventPending.run_handled (h : EventPending i s) {ts : List Turn} (hturns : s.turns = .ctrl :: .cpydma :: ts) :
    ∃ u, Sys2Proof.core.run 2 s = .next u ∧ Handled i ts s u := by
  by_cases hready : s.backState = .readyToCopy
  · obtain ⟨n, hrun⟩ := h.run_copy hturns (txcHandler_of_ready i hready h.noCopy)
    exact ⟨_, hrun, h.handled_copy ts n _ fun _ => rfl⟩
  · by_cases hids : s.frontId0 = s.frontId1
    · have hfirst : step s = .next (scheduled (.cpydma :: ts) s.draws (txcEnd s)) :=
        (h.step_eq hturns).trans (congrArg _ (txcHandler_of_ids_eq i hready hids))
      have hsecond : step (scheduled (.cpydma :: ts) s.draws (txcEnd s)) = .next (scheduled ts s.draws (txcEnd s)) :=
        (step_of_turns rfl).trans
          (congrArg _ (copyDone_of_idle (s := scheduled ts s.draws (txcEnd s)) (.inl h.noCopy)))
      exact ⟨_, core_run_two hfirst hsecond, ⟨h.started, h.noFault, rfl, h.noCopy⟩, rfl, h.txIdx, rfl,
        buf_congr _ _ rfl rfl rfl _, fun hready' => absurd hready' hready⟩
    · obtain ⟨n, hrun⟩ := h.run_copy hturns (txcHandler_of_ids_ne i hready hids h.noCopy)
      exact ⟨_, hrun, h.handled_copy ts n _ fun hready' => absurd hready' hready⟩

/-- The next TXDONE sends the other front buffer (R168). -/
theorem Handled.wire_bufferSent {ts : List Turn} {u : State} (h : Handled i ts s u) :
    (bufferSent u).wire = s.wire ++ [s.buf (.front i.other)] := by
  rw [← h.wire, ← h.sent, ← h.txIdx]
  rfl

/-- From the event of FRONT `i` with BACK ready to the event of the other front buffer: FRONT `i`, now being sent, has the
frame of BACK. -/
theorem EventPending.run_ready (h : EventPending i s) (hready : s.backState = .readyToCopy) {ts : List Turn}
    (hturns : s.turns = .ctrl :: .cpydma :: .ctrl :: .txdma :: ts) :
    ∃ u, Sys2Proof.core.run 4 s = .next u ∧ EventPending i.other u ∧ u.turns = ts ∧
      u.wire = s.wire ++ [s.buf (.front i.other)] ∧ u.buf (.front i) = s.bufBack := by
  obtain ⟨u, hrun, hu⟩ := h.run_handled hturns
  obtain ⟨hframe, hcpc⟩ := hu.ready hready
  obtain ⟨hs, hfault, htxc, hcopy⟩ := hu.clear
  let v := cpcHandler { u with turns := .txdma :: ts }
  have hctrl : step u = .next v := step_of_copyComplete hu.turns hfault hcpc
  have hv : SendingClear v := ⟨hs, hfault, htxc, hcopy⟩
  refine ⟨bufferSent (scheduled ts u.draws v), (core_run_add hrun 2).trans (core_run_two hctrl (hv.step_eq rfl)),
    ⟨hs, hfault, congrArg Front.other hu.txIdx, congrArg some hu.txIdx, rfl, hcopy⟩, rfl, hu.wire_bufferSent, ?_⟩
  exact (buf_congr u _ rfl rfl rfl _).trans hframe

/-- From the event of FRONT `i` to the end of the other front buffer. -/
theorem EventPending.run_sent (h : EventPending i s) {ts : List Turn}
    (hturns : s.turns = .ctrl :: .cpydma :: .txdma :: ts) :
    ∃ u, Sys2Proof.core.run 3 s = .next u ∧ u.fault = none ∧ u.turns = ts ∧
      u.wire = s.wire ++ [s.buf (.front i.other)] := by
  obtain ⟨u, hrun, hu⟩ := h.run_handled hturns
  exact ⟨_, (core_run_add hrun 1).trans (core_run_one (hu.clear.step_eq hu.turns)), hu.clear.noFault, rfl,
    hu.wire_bufferSent⟩

/-- The schedule of R176: the first TXDONE sends the other front buffer, the second one FRONT `i` with the frame of BACK. -/
theorem Inv.run_sends_frame (h : Inv s) (hfault : s.fault = none) (hready : s.backState = .readyToCopy)
    (htxc : s.txcPending = some i) (hcpc : s.cpcPending = false) {ts : List Turn}
    (hturns : s.turns = [.ctrl, .cpydma, .ctrl, .txdma, .ctrl, .cpydma, .txdma] ++ ts) :
    ∃ t, Sys2Proof.core.run 7 s = .next t ∧ t.fault = none ∧ t.turns = ts ∧
      t.wire = s.wire ++ [s.buf (.front i.other), s.bufBack] := by
  obtain ⟨u, hrun, hu, hturns', hwire, hframe⟩ := (h.eventPending hfault htxc hcpc).run_ready hready hturns
  obtain ⟨t, hrun', hfault', hts, hwire'⟩ := hu.run_sent hturns'
  refine ⟨t, (core_run_add hrun 3).trans hrun', hfault', hts, ?_⟩
  rw [hwire', hwire, other_other, hframe, List.append_assoc]
  rfl

end

/-! ### Every fair run that does not fault -/

/-- The frame `b` is in BACK, ready or being copied. -/
def FrameInBack (b : List Byte) (s : State) : Prop :=
  s.bufBack = b ∧ (s.backState = .readyToCopy ∨ ∃ i, s.copy = some ⟨.back, i⟩)

/-- The frame `b` is in the front buffer that is sent next, and the one being sent can end without a fault. -/
def FrameNext (b : List Byte) (s : State) : Prop :=
  s.buf (.front s.txIdx.other) = b ∧ s.txcPending = none ∧ s.copy = none

/-- The frame `b` is being sent. -/
def FrameSending (b : List Byte) (s : State) : Prop := s.buf (.front s.txIdx) = b

section
variable {s t : State} {b : List Byte}

theorem SameDriver.frameInBack (hsame : SameDriver s t) (h : FrameInBack b s) : FrameInBack b t := by
  rwa [FrameInBack, hsame.bufBack, hsame.backState, hsame.copy]

theorem SameDriver.frameNext (hsame : SameDriver s t) (h : FrameNext b s) : FrameNext b t := by
  rwa [FrameNext, hsame.buf, hsame.txIdx, hsame.txcPending, hsame.copy]

/-- A frame in BACK holds the next SET (R164, R174). -/
theorem FrameInBack.backState_ne_free (h : FrameInBack b s) (hinv : Inv s) : s.backState ≠ .free := by
  obtain ⟨-, hready | ⟨i, hk⟩⟩ := h
  · simp [hready]
  · obtain ⟨-, -, -, -, ⟨-, hcopying⟩ | ⟨hfront, -⟩⟩ := hinv.copy _ hk
    · simp [hcopying]
    · cases hfront

/-- At the end of the copy from BACK its frame is in the front buffer that is sent next (R172, R174). -/
theorem frameNext_copied (hinv : Inv s) {i : Front} (hk : s.copy = some ⟨.back, i⟩) :
    FrameNext s.bufBack (copied ⟨.back, i⟩ s) := by
  obtain ⟨-, hdst, htxc, -⟩ := hinv.copy _ hk
  have hnext : (copied ⟨.back, i⟩ s).txIdx.other = i := by simpa [copied] using hdst.symm
  refine ⟨?_, by simpa [copied] using htxc, by simp [copied]⟩
  rw [hnext, copied, buf_copyEnd, buf_setBuf_self]
  rfl

/-- A frame in BACK stays there until COPYDONE has copied it into the front buffer that is sent next (R170, R172). -/
theorem DriverStep.frameInBack_or_next (hstep : DriverStep s t) (hinv : Inv s) (hs : s.started = true)
    (h : FrameInBack b s) : FrameInBack b t ∨ FrameNext b t := by
  obtain ⟨hbuf, hwhere⟩ := id h
  cases hstep with
  | copyDone k _ _ hk hsame =>
    rcases hwhere with hready | ⟨i, hi⟩
    · exact .inl (hsame.frameInBack ⟨(copied_bufBack k s).trans hbuf, .inl (by simpa [copied] using hready)⟩)
    · cases hk.symm.trans hi
      exact .inr (hsame.frameNext (hbuf ▸ frameNext_copied hinv hk))
  | copyFromBack i _ _ _ hsame =>
    exact .inl (hsame.frameInBack ⟨by simpa [copyBegun] using hbuf, .inr ⟨i, by simp [copyBegun]⟩⟩)
  | copyFromFront _ _ hready _ hnone =>
    rcases hwhere with hready' | ⟨i, hi⟩
    · exact absurd hready' hready
    · exact absurd (hnone.symm.trans hi) nofun
  | copyComplete _ _ _ hsame =>
    exact .inl (hsame.frameInBack ⟨hbuf, hwhere.imp_left fun hready => by simp [cpcHandler, hready]⟩)
  | start _ _ hunstarted => exact absurd (hs.symm.trans hunstarted) nofun
  | frame _ _ _ _ _ hholds =>
    have hfree := (setHolds_eq_false_iff.mp hholds).resolve_left (by simp [hs])
    exact absurd hfree (h.backState_ne_free hinv)
  | quiet hsame => exact .inl (hsame.frameInBack h)
  | txDone _ _ _ _ _ hsame => exact .inl (hsame.frameInBack h)
  | noCopy _ _ _ _ hsame => exact .inl (hsame.frameInBack h)

/-- SET writes no front buffer (R181). -/
theorem buf_front_setFrame (ps : List Triple) (s : State) (i : Front) :
    (setFrame ps s).buf (.front i) = s.buf (.front i) := by
  cases i <;> rfl

/-- A frame in the front buffer that is sent next stays there until the ring moves on: no event can begin a copy (R170). -/
theorem DriverStep.frameNext (hstep : DriverStep s t) (hs : s.started = true) (hturn : nextTurn s ≠ .txdma)
    (h : FrameNext b s) : FrameNext b t := by
  obtain ⟨hbuf, htxc, hnone⟩ := id h
  have hnoEvent (i : Front) (hi : TxcTurn s i) : FrameNext b t := absurd (htxc.symm.trans hi.event) nofun
  cases hstep with
  | quiet hsame => exact hsame.frameNext h
  | start _ _ hunstarted => exact absurd (hs.symm.trans hunstarted) nofun
  | frame _ _ _ _ _ _ _ hsame => exact hsame.frameNext ⟨(buf_front_setFrame ..).trans hbuf, htxc, hnone⟩
  | txDone hturn' => exact absurd hturn' hturn
  | copyDone k _ _ hk => exact absurd (hnone.symm.trans hk) nofun
  | copyComplete _ _ _ hsame => exact hsame.frameNext h
  | copyFromBack i hi => exact hnoEvent i hi
  | copyFromFront i hi => exact hnoEvent i hi
  | noCopy i hi => exact hnoEvent i hi

/-- A frame being sent stays in its buffer until the ring moves on (R175). -/
theorem DriverStep.frameSending (hstep : DriverStep s t) (hinv : Inv s) (hs : s.started = true)
    (hturn : nextTurn s ≠ .txdma) (h : FrameSending b s) : FrameSending b t := by
  have htx := (hstep.txIdx_eq_or hs).resolve_right fun ⟨hturn', _⟩ => hturn hturn'
  rw [FrameSending, htx, hstep.sentBuf_eq hinv]
  exact h

/-- The wire history only grows (R41). -/
theorem DriverStep.wire_length_le (hstep : DriverStep s t) : s.wire.length ≤ t.wire.length := by
  rcases hstep.wire_eq_or with hwire | ⟨-, -, -, hsame⟩
  · rw [hwire]
  · simp [hsame.wire, bufferSent]

/-! ### The stages of a run -/

theorem Inv.scheduled {ts : List Turn} {n : Nat} (h : Inv s) : Inv (scheduled ts n s) :=
  h.of_sameDriver (SameDriver.refl s) rfl h.memWf

variable {sched : Nat → Turn} {r : Nat → State} (hc : Continuation s sched r)
include hc

/-- A step of a run, as a step of the machine in the state whose schedule has its agent next. -/
theorem Continuation.driverStep (j : Nat) :
    DriverStep (scheduled (sched j :: (r j).turns) (r j).draws (r j)) (r (j + 1)) :=
  agentStep_driverStep (hc.fair.run j)

theorem Continuation.wire_length_le (k : Nat) : s.wire.length ≤ (r k).wire.length := by
  induction k with
  | zero => rw [hc.start]
  | succ k ih => exact ih.trans (hc.driverStep k).wire_length_le

variable (hff : FaultFree r) (hs : s.started = true)
include hff hs

/-- What lasts until the next TXDONE holds at one (R226). -/
theorem Continuation.reaches_txDone (P : State → Prop) (k : Nat) (hk : P (r k))
    (hkeep : ∀ j, P (r j) → sched j ≠ .txdma → P (r (j + 1))) : ∃ j, P (r j) ∧ r (j + 1) = bufferSent (r j) := by
  have hstarted := hc.started hs
  obtain ⟨j, -, hturn, -, -, hj⟩ := hc.fair.txdma.reaches (fun u => u.fault = none ∧ u.started = true ∧ P u) k
    ⟨hff k, hstarted k, hk⟩ (fun u ⟨hfault, hs, _⟩ => by simp [txDoneEnabled, hfault, hs])
    fun j ⟨_, _, hj⟩ hturn => ⟨hff _, hstarted _, hkeep j hj hturn⟩
  refine ⟨j, hj, ?_⟩
  have hstep := hc.step_cases hff j
  simp only [hturn, reduceCtorEq, false_and, false_or, or_false, true_and] at hstep
  rcases hstep with ⟨hunstarted, -⟩ | ⟨-, -, hsent⟩
  · exact absurd ((hstarted j).symm.trans hunstarted) nofun
  · exact hsent

/-- What is being sent is on the wire after the next TXDONE. -/
theorem Continuation.sending_reaches_wire (hinv : Inv s) {k : Nat} (hk : FrameSending b (r k)) :
    ∃ j, b ∈ (r j).wire.drop s.wire.length := by
  obtain ⟨j, hj, hsent⟩ := hc.reaches_txDone hff hs (FrameSending b) k hk fun j hj hturn =>
    (hc.driverStep j).frameSending (hc.inv hinv j).scheduled (hc.started hs j) hturn hj
  have hwire : (r (j + 1)).wire = (r j).wire ++ [b] := by rw [hsent, ← hj]; rfl
  refine ⟨j + 1, ?_⟩
  rw [hwire, List.drop_append_of_le_length (hc.wire_length_le j)]
  simp

/-- What is in the front buffer that is sent next is being sent after the next TXDONE. -/
theorem Continuation.next_reaches_sending {k : Nat} (hk : FrameNext b (r k)) : ∃ j, FrameSending b (r j) := by
  obtain ⟨j, ⟨hj, -⟩, hsent⟩ := hc.reaches_txDone hff hs (FrameNext b) k hk fun j hj hturn =>
    (hc.driverStep j).frameNext (hc.started hs j) hturn hj
  exact ⟨j + 1, by rw [hsent]; exact hj⟩

/-- A frame in BACK reaches the front buffer that is sent next, since the hold of the next SET ends (R164, R176). -/
theorem Continuation.inBack_reaches_next (hinv : Inv s) (h : FrameInBack b s) : ∃ j, FrameNext b (r j) := by
  by_contra hnever
  push Not at hnever
  have hstays (j : Nat) : FrameInBack b (r j) := by
    induction j with
    | zero => rw [hc.start]; exact h
    | succ j ih =>
      exact ((hc.driverStep j).frameInBack_or_next (hc.inv hinv j).scheduled (hc.started hs j) ih).resolve_right (hnever _)
  obtain ⟨k, hfree⟩ := hc.hold_ends hff hinv hs
  exact (hstays k).backState_ne_free (hc.inv hinv k) hfree

end

/-- Settles O60: seven steps on the one schedule; in a fair run the frame goes from BACK to the front buffer sent next, is
sent, and is on the wire. -/
theorem setFrameReachesWire : Obligations.SetFrameReachesWire := by
  refine ⟨fun s i ts hinv hfault hready htxc hcpc hturns => hinv.run_sends_frame hfault hready htxc hcpc hturns,
    fun s sched r hinv hs hready hc hff => ?_⟩
  obtain ⟨j, hnext⟩ := hc.inBack_reaches_next hff hs hinv ⟨rfl, .inl hready⟩
  obtain ⟨k, hsending⟩ := hc.next_reaches_sending hff hs hnext
  exact hc.sending_reaches_wire hff hs hinv hsending

end Sys2Proof.Machine
end

section
/-! Faults (60_exceptions R190, R192 to R196): a latched fault stays, and the step that raises one changes nothing else: O20,
O21. -/

namespace Sys2Proof.Machine

/-! ### A faulted block keeps its fault, RESULT and driver state -/

/-- `t` has the fault, RESULT and the driver state of `s`. -/
def FaultKept (s t : State) : Prop := t.fault = s.fault ∧ t.result = s.result ∧ SameDriver s t

section
variable {s t : State}

theorem FaultKept.refl (s : State) : FaultKept s s := ⟨rfl, rfl, SameDriver.refl s⟩

theorem faultKept_writeReg (off : BitVec 12) (d : Word) (s : State) : FaultKept s (writeReg off d s) :=
  ⟨writeReg_fault off d s, writeReg_result off d s, sameDriver_writeReg off d s⟩

/-- While faulted no command runs (R94): the host waits, or a bus access writes or reads a register. -/
theorem ExecEffect.faultKept (h : ExecEffect s t) (hfault : s.fault ≠ none) : FaultKept s t := by
  cases h with
  | waits => exact FaultKept.refl s
  | body _ hnone => exact absurd hnone hfault
  | wrote off d => exact faultKept_writeReg off d s
  | read => exact FaultKept.refl s

theorem hostStep_faultKept (hfault : s.fault ≠ none) (hstep : hostStep s = .next t) : FaultKept s t := by
  rcases hostStep_effect s t hstep with ⟨_, _, rfl⟩ | ⟨_, _, _, _, _, _, rfl⟩ | ⟨_, heff⟩
  · exact FaultKept.refl s
  · exact FaultKept.refl s
  · exact heff.faultKept hfault

/-- Only HOST does anything while a fault is latched (R193). -/
theorem agentStep_faultKept {turn : Turn} {c : Cause} (hfault : s.fault = some c) (hstep : agentStep turn s = .next t) :
    FaultKept s t := by
  by_cases hturn : turn = .host
  · subst hturn
    exact hostStep_faultKept (by simp [hfault]) hstep
  · rw [agentStep_of_fault hfault hturn] at hstep
    cases hstep
    exact FaultKept.refl s

end

/-- Settles O20: taking the turn moves the schedule only, and `agentStep_faultKept` says the rest. -/
theorem faultIsSticky : Obligations.FaultIsSticky := by
  intro s t c hfault hstep
  have hkept : FaultKept (afterTurn s) t := agentStep_faultKept ((afterTurn_fault s).trans hfault) hstep
  obtain ⟨ts, k, hafter⟩ := afterTurn_eq s
  rw [hafter] at hkept
  obtain ⟨hsame, hresult, hdriver⟩ := hkept
  exact ⟨hsame.trans hfault, hresult, hdriver⟩

/-! ### The step that raises a fault -/

/-- If `t` has a fault, it is `s` with that fault (R195). -/
def RaisesOnly (s t : State) : Prop := ∀ c, t.fault = some c → t = { s with fault := some c }

theorem raisesOnly_of_noFault {s t : State} (hfault : t.fault = none) : RaisesOnly s t :=
  fun _ hraised => absurd (hfault.symm.trans hraised) nofun

theorem raisesOnly_raise {s : State} (d : Cause) (hfault : s.fault = none) : RaisesOnly s (raise d s) := by
  rw [raise_of_none d hfault]
  rintro _ ⟨⟩
  rfl

section
variable {s t : State} (hfault : s.fault = none)
include hfault

theorem BodyEffect.raisesOnly (h : BodyEffect s t) : RaisesOnly s t := by
  cases h with
  | result => exact raisesOnly_of_noFault hfault
  | fault d => exact raisesOnly_raise d hfault
  | start => exact raisesOnly_of_noFault ((startBody_fault s).trans hfault)
  | waits => exact raisesOnly_of_noFault hfault
  | frame => exact raisesOnly_of_noFault hfault

theorem ExecEffect.raisesOnly (h : ExecEffect s t) : RaisesOnly s t := by
  cases h with
  | waits => exact raisesOnly_of_noFault hfault
  | body _ _ hbody => exact hbody.raisesOnly hfault
  | wrote off d => exact raisesOnly_of_noFault ((writeReg_fault off d s).trans hfault)
  | read => exact raisesOnly_of_noFault hfault

theorem raisesOnly_txcHandler (i : Front) : RaisesOnly s (txcHandler i s) := by
  rcases txcHandler_cases i s with ⟨_, _, h⟩ | ⟨_, _, h⟩ | ⟨_, _, _, h⟩ | ⟨_, _, h⟩ <;> rw [h]
  · exact raisesOnly_raise _ hfault
  · exact raisesOnly_of_noFault (by simpa using hfault)
  · exact raisesOnly_of_noFault (by simpa using hfault)
  · exact raisesOnly_of_noFault hfault

theorem raisesOnly_ctrlStep : RaisesOnly s (ctrlStep s) := by
  rcases ctrlStep_cases s with h | ⟨_, _, h⟩ | ⟨i, _, _, _, h⟩ <;> rw [h]
  · exact raisesOnly_of_noFault hfault
  · exact raisesOnly_of_noFault hfault
  · exact raisesOnly_txcHandler hfault i

theorem raisesOnly_txDone : RaisesOnly s (txDone s) := by
  rcases txDone_cases s with h | ⟨d, h⟩ | ⟨_, _, _, _, h⟩ <;> rw [h]
  · exact raisesOnly_of_noFault hfault
  · exact raisesOnly_raise d hfault
  · exact raisesOnly_of_noFault hfault

/-- COPYDONE raises no fault (R172). -/
theorem raisesOnly_copyDone : RaisesOnly s (copyDone s) := by
  rcases copyDone_cases s with h | ⟨_, _, _, h⟩ <;> rw [h]
  · exact raisesOnly_of_noFault hfault
  · exact raisesOnly_of_noFault (by simpa using hfault)

theorem raisesOnly_dmaErr : RaisesOnly s (dmaErr s) := by
  rcases dmaErr_cases s with h | ⟨_, h⟩ <;> rw [h]
  · exact raisesOnly_of_noFault hfault
  · exact raisesOnly_raise _ hfault

/-- A HOST step that raises a fault does so in an instruction, when the host's access and program have moved on. -/
theorem hostStep_raisesOnly (hstep : hostStep s = .next t) :
    ∃ now prog, RaisesOnly { s with hostNow := now, hostProg := prog } t := by
  rcases hostStep_effect s t hstep with ⟨prog, now, rfl⟩ | ⟨_, _, prog, _, _, _, rfl⟩ | ⟨prog, heff⟩
  · exact ⟨now, prog, raisesOnly_of_noFault hfault⟩
  · exact ⟨s.hostNow, prog, raisesOnly_of_noFault hfault⟩
  · exact ⟨none, prog, heff.raisesOnly hfault⟩

/-- A step raises its fault in a state that differs from the one before only in what is the host's and the schedule's. -/
theorem step_raisesOnly (hstep : step s = .next t) :
    ∃ now prog ts k, RaisesOnly { s with hostNow := now, hostProg := prog, turns := ts, draws := k } t := by
  obtain ⟨ts, k, hafter⟩ := afterTurn_eq s
  have hnone : (afterTurn s).fault = none := (afterTurn_fault s).trans hfault
  have hagent : ∃ now prog, RaisesOnly { afterTurn s with hostNow := now, hostProg := prog } t := by
    rcases step_effect s t hstep with ⟨_, hhost⟩ | ⟨_, rfl⟩ | ⟨_, rfl⟩ | ⟨_, rfl⟩ | ⟨_, rfl⟩
    · exact hostStep_raisesOnly hnone hhost
    · exact ⟨_, _, raisesOnly_ctrlStep hnone⟩
    · exact ⟨_, _, raisesOnly_txDone hnone⟩
    · exact ⟨_, _, raisesOnly_copyDone hnone⟩
    · exact ⟨_, _, raisesOnly_dmaErr hnone⟩
  rw [hafter] at hagent
  obtain ⟨now, prog, honly⟩ := hagent
  exact ⟨now, prog, ts, k, honly⟩

end

/-- Settles O21: `step_raisesOnly`, for the cause that the step latched. -/
theorem faultsArePrecise : Obligations.FaultsArePrecise := by
  intro s t c hfault hstep hraised
  obtain ⟨now, prog, ts, k, honly⟩ := step_raisesOnly hfault hstep
  exact ⟨now, prog, ts, k, honly c hraised⟩

end Sys2Proof.Machine
end

section
/-! Reset (70_reset R220, R221): the values it leaves, at the start and after a run, and the invariant there: O10, O11. -/

namespace Sys2Proof.Machine

/-- Every buffer is the encoding of the black frame at reset (R220). -/
theorem buf_resetOf (c : Cfg) (b : Buf) : (State.resetOf c).buf b = encFrame c (blackFrame c) := by
  rcases b with _ | (_ | _) <;> rfl

/-- STATUS is 0 at reset: the first clause of O15. -/
theorem statusWord_resetOf (c : Cfg) : statusWord (State.resetOf c) = 0x00000000 :=
  statusShowsState.1 c

/-- The start and the reset of a block that has run differ only in memory, the host's program and the schedule, which
R220 does not name (assumption 14). -/
theorem eq_resetOf_of_reset {c : Cfg} {s : State}
    (h : s = State.resetOf c ∨ ∃ u prog ts, u.cfg = c ∧ s = resetBlock prog ts u) :
    ∃ m prog ts, s = { State.resetOf c with mem := m, hostProg := prog, turns := ts } := by
  rcases h with rfl | ⟨u, prog, ts, rfl, rfl⟩
  · exact ⟨[], [], [], rfl⟩
  · exact ⟨u.mem, prog, ts, rfl⟩

/-- Settles O10: by `eq_resetOf_of_reset` each value of R220 is read off `State.resetOf`, whatever the block did before. -/
theorem resetLeavesStatedValues : Obligations.ResetLeavesStatedValues := by
  refine ⟨rfl, fun c s hreset => ?_⟩
  obtain ⟨m, prog, ts, rfl⟩ := eq_resetOf_of_reset hreset
  exact ⟨⟨rfl, rfl, rfl, rfl, rfl, rfl⟩, ⟨rfl, rfl⟩, ⟨rfl, rfl, rfl, rfl, rfl⟩, rfl, rfl, buf_resetOf c, rfl, rfl, rfl, rfl,
    rfl, rfl, statusWord_resetOf c, rfl⟩

/-- Settles O11: `inv_resetOf`, for the platform too, whose configuration is well-formed whatever its open constants are. -/
theorem resetHasInv : Obligations.ResetHasInv :=
  ⟨inv_resetOf platform_wf, fun _ hwf => inv_resetOf hwf⟩

end Sys2Proof.Machine
end
